-- ==== Sys2Proof/Word.lean ====
section
/-! DEFINITION. The widths of the machine (00_scope.md R5) and the masks w8, w16, w20 of the spec's notation (section 3). -/

namespace Sys2Proof

/-- One byte of memory or of an instruction image: 8 bits (R5, R50). -/
abbrev Byte := BitVec 8

/-- A register, an immediate or a stack word: 16 bits (R5, R21, R83). -/
abbrev Word := BitVec 16

/-- A physical address: 20 bits (R5, R52). -/
abbrev PhysAddr := BitVec 20

/-- `w8(v) = v mod 2^8`, for any integer (00_scope.md, section 3). -/
def w8 (v : Int) : Byte := BitVec.ofInt 8 v

/-- `w16(v) = v mod 2^16`, for any integer: `w16(-1) = 0xFFFF` (00_scope.md, section 3). -/
def w16 (v : Int) : Word := BitVec.ofInt 16 v

/-- `w20(v) = v mod 2^20`, for any integer (00_scope.md, section 3). -/
def w20 (v : Int) : PhysAddr := BitVec.ofInt 20 v

end Sys2Proof
end

