-- ==== Sys2Proof/Syntax.lean ====
section
/-! DEFINITION. The names of the machine and its instructions: registers, flags, mnemonics, the instruction record
as the host hands it over, and `Instr`, one constructor per row of spec/opcode_table.json. -/

namespace Sys2Proof

/-- The thirteen registers (10_state.md R21): general, pointer and index, segment, and IP. -/
inductive Reg where
  | ax | bx | cx | dx
  | sp | bp | si | di
  | cs | ds | ss | es
  | ip
deriving DecidableEq, Repr

/-- All registers, in the order of R21. Sets of register names are kept in this order. -/
def Reg.all : List Reg :=
  [.ax, .bx, .cx, .dx, .sp, .bp, .si, .di, .cs, .ds, .ss, .es, .ip]

/-- The twelve registers an instruction operand may name (R21, R80): every register but IP. -/
inductive OpReg where
  | ax | bx | cx | dx
  | sp | bp | si | di
  | cs | ds | ss | es
deriving DecidableEq, Repr

/-- The register file cell an operand register names: the twelve names are twelve distinct cells (R21). -/
def OpReg.toReg : OpReg → Reg
  | .ax => .ax | .bx => .bx | .cx => .cx | .dx => .dx
  | .sp => .sp | .bp => .bp | .si => .si | .di => .di
  | .cs => .cs | .ds => .ds | .ss => .ss | .es => .es

/-- The operand register with a given name; IP is none (R21). -/
def Reg.toOpReg : Reg → Option OpReg
  | .ax => some .ax | .bx => some .bx | .cx => some .cx | .dx => some .dx
  | .sp => some .sp | .bp => some .bp | .si => some .si | .di => some .di
  | .cs => some .cs | .ds => some .ds | .ss => some .ss | .es => some .es
  | .ip => none

/-- The four independent Boolean flags (10_state.md R27). -/
inductive Flag where
  | zf | cf | sf | of
deriving DecidableEq, Repr

/-- All flags, in the order of R27. -/
def Flag.all : List Flag := [.zf, .cf, .sf, .of]

/-- The closed set of 30 mnemonics, in the source's order, and `unknown` for every other name (30_encoding.md R81). -/
inductive Mnemonic where
  | mov | push | pop | xchg
  | add | sub | inc | dec | mul | div | neg
  | and | or | xor | not | cmp
  | jmp | je | jz | jne | jnz | jg | jge | jl | jle
  | call | ret | loop | nop | hlt
  | unknown
deriving DecidableEq, Repr

/-- An operand of a record as the host may hand it over: a register name, an immediate number or null (R80).
It can name IP, which no admitted record does (R21, D2): the check is `Record.wf` and the decoder refuses it. -/
inductive RawOperand where
  | reg (r : Reg)
  | imm (n : Word)
  | none
deriving DecidableEq, Repr

/-- The instruction record (30_encoding.md R80): mnemonic, two operands, the byte image and the address (an offset in
the program as the assembler leaves it, the physical load address after `loadProgram`). -/
structure Record where
  mn : Mnemonic
  op1 : RawOperand
  op2 : RawOperand
  bytes : List Byte
  addr : Nat
deriving DecidableEq, Repr

/-- `I.size`, the byte length: always the length of `bytes` (R80). -/
def Record.size (r : Record) : Nat := r.bytes.length

/-- An operand of an admitted record: one of the twelve registers, an immediate, or absent (R80). -/
inductive Operand where
  | reg (r : OpReg)
  | imm (n : Word)
  | none
deriving DecidableEq, Repr

/-- The instructions: one constructor per row of spec/opcode_table.json, in the table's order. What the dispatcher
selects on is the record's mnemonic and operand kinds (R82, R95), so a row is a mnemonic with one operand shape.
A target is an absolute offset in CS (R83, R185). -/
inductive Instr where
  | movImm (d : OpReg) (n : Word)
  | movReg (d : OpReg) (r : OpReg)
  | push (r : OpReg)
  | pop (r : OpReg)
  | xchg (a : OpReg) (b : OpReg)
  | addReg (d : OpReg) (r : OpReg)
  | addImm (d : OpReg) (n : Word)
  | subReg (d : OpReg) (r : OpReg)
  | subImm (d : OpReg) (n : Word)
  | andReg (d : OpReg) (r : OpReg)
  | andImm (d : OpReg) (n : Word)
  | orReg (d : OpReg) (r : OpReg)
  | orImm (d : OpReg) (n : Word)
  | xorReg (d : OpReg) (r : OpReg)
  | xorImm (d : OpReg) (n : Word)
  | cmpReg (a : OpReg) (b : OpReg)
  | cmpImm (a : OpReg) (n : Word)
  | inc (r : OpReg)
  | dec (r : OpReg)
  | mulReg (r : OpReg)
  | mulImm (n : Word)
  | divReg (r : OpReg)
  | divImm (n : Word)
  | neg (r : OpReg)
  | not (r : OpReg)
  | jmp (t : Word)
  | je (t : Word)
  | jz (t : Word)
  | jne (t : Word)
  | jnz (t : Word)
  | jg (t : Word)
  | jge (t : Word)
  | jl (t : Word)
  | jle (t : Word)
  | call (t : Word)
  | loop (t : Word)
  | ret
  | nop
  | hlt
  | unknown (op1 : Operand) (op2 : Operand)
deriving DecidableEq, Repr

end Sys2Proof
end

