-- ==== Sys2Proof/Machine/CpuState.lean ====
section
/-! DEFINITION. The CPU state as a value: registers, flags, halted flag and cycle counter (10_state.md R20 items 1 to 4,
R34). A snapshot in a trace record is one of these. -/

namespace Sys2Proof.Machine

/-- The register file: thirteen distinct 16-bit cells (R21). -/
structure Regs where
  ax : Word
  bx : Word
  cx : Word
  dx : Word
  sp : Word
  bp : Word
  si : Word
  di : Word
  cs : Word
  ds : Word
  ss : Word
  es : Word
  ip : Word
deriving DecidableEq, Repr

/-- The four independent flags (R27). -/
structure Flags where
  zf : Bool
  cf : Bool
  sf : Bool
  of : Bool
deriving DecidableEq, Repr

/-- The source's `CPUState`: "registers + flags + halted flag + cycle counter" (R20, R34); the counter is unbounded
(R32; log 18). -/
structure CpuState where
  regs : Regs
  flags : Flags
  halted : Bool
  cycles : Nat
deriving DecidableEq, Repr

end Sys2Proof.Machine
end

