-- ==== Sys2Proof/Config.lean ====
section
/-! DEFINITION. What an implementation fixes: the constants and the named parameters of 00_scope.md R5, and the free
values. A parameter to which the spec gives a default has that value here; a parameter with no default and the opaque
texts are constants without a body, so that every statement holds whatever they are. -/

namespace Sys2Proof.Config

/-- The access-log capacity: 1000 entries (R5, 20_memory.md R60). -/
def accessLogCapacity : Nat := 1000

/-- The default step budget of `run` (R5, 40_step_cycle.md R135). -/
def defaultRunBudget : Nat := 10000

/-- `HLT_ADVANCES_IP`, with the spec's default, false (R5, 43_control_flow.md R199).
DESIGN CHOICE (log 3), unsafe: the source does not say, and the spec names this default. -/
def hltAdvancesIp : Bool := false

/-- `RESET_CLEARS_PROGRAM`: does `reset` empty the instruction store, the program list and the trace? A parameter with
no default (R5, 70_reset_and_hazards.md R250), so a constant with no body (log 2). -/
opaque resetClearsProgram : Bool

/-- `HOST_ACCESS_LOGGED`: do the host's memory accessors push log entries? A parameter with no default (R5,
20_memory.md R73), so a constant with no body (log 5). -/
opaque hostAccessLogged : Bool

/-- The rendering of a record as assembly text in a trace record: "not specified further, opaque" (40_step_cycle.md
R132). A free value (log 12). -/
opaque renderedText : Record → String

/-- The "human-readable one-line effect description" a handler returns, from the record and the state before and after:
an opaque string (R125, R132, D34). A free value (log 12). -/
opaque effectText : Record → Machine.CpuState → Machine.CpuState → String

end Sys2Proof.Config
end

