-- ==== Sys2Proof/Machine/Bytes.lean ====
section
/-! DEFINITION. The byte order of a word: little-endian (20_memory.md R62), and the physical address of a
segment and an offset (R52). -/

namespace Sys2Proof

/-- `bits[7:0]` of a word: the byte at the lower address (R58, R62). -/
def lowByte (v : Word) : Byte := v.extractLsb' 0 8

/-- `bits[15:8]` of a word: the byte at the higher address (R58, R62). -/
def highByte (v : Word) : Byte := v.extractLsb' 8 8

/-- `hi ++ lo`, that is `hi*256 + lo` (R57). -/
def wordOf (hi lo : Byte) : Word := hi ++ lo

/-- `phys(seg, off) = w20(seg*16 + off)`: the sum is formed exactly and then reduced (R52). -/
def phys (seg off : Word) : PhysAddr := BitVec.ofNat 20 (seg.toNat * 16 + off.toNat)

end Sys2Proof
end

