-- ==== Sys2Proof/WellFormed.lean ====
section
/-! DEFINITION. Which records and programs the machine admits: the operand shapes of 30_encoding.md R82 and the
preconditions of a load, 70_reset_and_hazards.md R253. An `Instr` needs no check of its own: its types hold only the
twelve operand registers and 16-bit immediates. -/

namespace Sys2Proof

/-- The operand is a register, and not IP (R21, R80). -/
def RawOperand.isReg : RawOperand → Bool
  | .reg .ip => false
  | .reg _ => true
  | _ => false

/-- The operand is an immediate. -/
def RawOperand.isImm : RawOperand → Bool
  | .imm _ => true
  | _ => false

/-- The operand is absent. -/
def RawOperand.isNone : RawOperand → Bool
  | .none => true
  | _ => false

/-- The operand is one R80 allows at all: not `reg IP`. -/
def RawOperand.ok (o : RawOperand) : Bool := o.isReg || o.isImm || o.isNone

/-- The table of R82: the operand shapes admitted for each mnemonic. -/
def shapeAdmitted (mn : Mnemonic) (op1 op2 : RawOperand) : Bool :=
  match mn with
  | .mov | .add | .sub | .and | .or | .xor | .cmp => op1.isReg && (op2.isReg || op2.isImm)
  | .push | .pop | .inc | .dec | .neg | .not => op1.isReg && op2.isNone
  | .xchg => op1.isReg && op2.isReg
  | .mul | .div => (op1.isReg || op1.isImm) && op2.isNone
  | .jmp | .je | .jz | .jne | .jnz | .jg | .jge | .jl | .jle | .call | .loop => op1.isImm && op2.isNone
  | .ret | .nop | .hlt => op1.isNone && op2.isNone
  | .unknown => op1.ok && op2.ok

/-- `size = length(bytes)` is between 1 and 3 (R253(4), R98). -/
def Record.sizeOk (r : Record) : Bool := decide (1 ≤ r.size) && decide (r.size ≤ 3)

/-- A record the machine admits (R82, R253(2), R253(4); log 14). -/
def Record.wf (r : Record) : Bool := shapeAdmitted r.mn r.op1 r.op2 && r.sizeOk

/-- The total size of a program's images. -/
def programSize (p : List Record) : Nat := (p.map Record.size).sum

/-- The total size is at most 0x10000 bytes, so that every offset fits IP (R253(3); log 15). -/
def programFits (p : List Record) : Bool := decide (programSize p ≤ 0x10000)

/-- A program `loadProgram` admits (R253(2) to R253(4)). -/
def programWf (p : List Record) : Bool := p.all Record.wf && programFits p

end Sys2Proof
end

