-- ==== Sys2Proof/Decode.lean ====
section
/-! DEFINITION. The two decoders and the two encoders.
The machine decodes RECORDS: the dispatcher selects on the mnemonic and the operand kinds (30_encoding.md R82, R95), and
nothing of the byte image is an input to it (R84). `decodeRecord` and `encodeRecord` are that decoder and its inverse.
The byte IMAGE (R92 to R96) is a copy for inspection that does not carry the operands: `imageBytes` is the default encoder
ENC, and `decodeImage` reads from an image the instruction it stands for with the operands the image leaves out taken at
their lowest values. No step uses `decodeImage`. -/

namespace Sys2Proof

/-- Why a record or an image is refused. -/
inductive DecodeError where
  /-- An operand is `reg IP`, which no operand may be (R21, D2). -/
  | ipOperand (mn : Mnemonic)
  /-- The operand shape is not in the table of R82. -/
  | inadmissibleShape (mn : Mnemonic)
  /-- The image is not 1 to 3 bytes (R253(4)). -/
  | badSize (size : Nat)
  /-- An image with no byte. -/
  | noBytes
  /-- An image's first byte is no opcode byte of R95. -/
  | notAnOpcode (b : Byte)
  /-- An image ends before its length is reached. -/
  | truncated (b : Byte)
  /-- The bytes after the opcode byte are not the fixed placeholders of R93. -/
  | badPlaceholder (b : Byte)
deriving DecidableEq, Repr

/-- One operand of a record, with `reg IP` refused (R80). -/
def decodeOperand : RawOperand → Option Operand
  | .reg r => r.toOpReg.map Operand.reg
  | .imm n => some (.imm n)
  | .none => some .none

/-- The shape `reg, (reg or imm)` of R82. -/
def shapeRegSource (byReg : OpReg → OpReg → Instr) (byImm : OpReg → Word → Instr) : Operand → Operand → Option Instr
  | .reg d, .reg r => some (byReg d r)
  | .reg d, .imm n => some (byImm d n)
  | _, _ => none

/-- The shape `reg, none` of R82. -/
def shapeReg (make : OpReg → Instr) : Operand → Operand → Option Instr
  | .reg r, .none => some (make r)
  | _, _ => none

/-- The shape `reg, reg` of R82. -/
def shapeRegReg (make : OpReg → OpReg → Instr) : Operand → Operand → Option Instr
  | .reg a, .reg b => some (make a b)
  | _, _ => none

/-- The shape `(reg or imm), none` of R82. -/
def shapeSource (byReg : OpReg → Instr) (byImm : Word → Instr) : Operand → Operand → Option Instr
  | .reg r, .none => some (byReg r)
  | .imm n, .none => some (byImm n)
  | _, _ => none

/-- The shape `imm, none` of R82. -/
def shapeTarget (make : Word → Instr) : Operand → Operand → Option Instr
  | .imm t, .none => some (make t)
  | _, _ => none

/-- The shape `none, none` of R82. -/
def shapeBare (i : Instr) : Operand → Operand → Option Instr
  | .none, .none => some i
  | _, _ => none

/-- The instruction with a given mnemonic and operands: the table of R82. -/
def instrOf (mn : Mnemonic) (op1 op2 : Operand) : Option Instr :=
  match mn with
  | .mov => shapeRegSource .movReg .movImm op1 op2
  | .push => shapeReg .push op1 op2
  | .pop => shapeReg .pop op1 op2
  | .xchg => shapeRegReg .xchg op1 op2
  | .add => shapeRegSource .addReg .addImm op1 op2
  | .sub => shapeRegSource .subReg .subImm op1 op2
  | .inc => shapeReg .inc op1 op2
  | .dec => shapeReg .dec op1 op2
  | .mul => shapeSource .mulReg .mulImm op1 op2
  | .div => shapeSource .divReg .divImm op1 op2
  | .neg => shapeReg .neg op1 op2
  | .and => shapeRegSource .andReg .andImm op1 op2
  | .or => shapeRegSource .orReg .orImm op1 op2
  | .xor => shapeRegSource .xorReg .xorImm op1 op2
  | .not => shapeReg .not op1 op2
  | .cmp => shapeRegSource .cmpReg .cmpImm op1 op2
  | .jmp => shapeTarget .jmp op1 op2
  | .je => shapeTarget .je op1 op2
  | .jz => shapeTarget .jz op1 op2
  | .jne => shapeTarget .jne op1 op2
  | .jnz => shapeTarget .jnz op1 op2
  | .jg => shapeTarget .jg op1 op2
  | .jge => shapeTarget .jge op1 op2
  | .jl => shapeTarget .jl op1 op2
  | .jle => shapeTarget .jle op1 op2
  | .call => shapeTarget .call op1 op2
  | .ret => shapeBare .ret op1 op2
  | .loop => shapeTarget .loop op1 op2
  | .nop => shapeBare .nop op1 op2
  | .hlt => shapeBare .hlt op1 op2
  | .unknown => some (.unknown op1 op2)

/-- Decoding a record's mnemonic and operands (R82). -/
def decodeRecord (mn : Mnemonic) (op1 op2 : RawOperand) : Except DecodeError Instr :=
  match decodeOperand op1, decodeOperand op2 with
  | some a, some b =>
    match instrOf mn a b with
    | some i => .ok i
    | none => .error (.inadmissibleShape mn)
  | _, _ => .error (.ipOperand mn)

/-- Admitting a record: its image is 1 to 3 bytes and its shape is in the table (R253(2), R253(4)). -/
def Record.decode (r : Record) : Except DecodeError Instr :=
  if r.sizeOk then decodeRecord r.mn r.op1 r.op2 else .error (.badSize r.size)

/-- An admitted operand as a record holds it. -/
def Operand.toRaw : Operand → RawOperand
  | .reg r => .reg r.toReg
  | .imm n => .imm n
  | .none => .none

/-- The mnemonic of an instruction's record. -/
def Instr.mnemonic : Instr → Mnemonic
  | .movImm _ _ => .mov
  | .movReg _ _ => .mov
  | .push _ => .push
  | .pop _ => .pop
  | .xchg _ _ => .xchg
  | .addReg _ _ => .add
  | .addImm _ _ => .add
  | .subReg _ _ => .sub
  | .subImm _ _ => .sub
  | .andReg _ _ => .and
  | .andImm _ _ => .and
  | .orReg _ _ => .or
  | .orImm _ _ => .or
  | .xorReg _ _ => .xor
  | .xorImm _ _ => .xor
  | .cmpReg _ _ => .cmp
  | .cmpImm _ _ => .cmp
  | .inc _ => .inc
  | .dec _ => .dec
  | .mulReg _ => .mul
  | .mulImm _ => .mul
  | .divReg _ => .div
  | .divImm _ => .div
  | .neg _ => .neg
  | .not _ => .not
  | .jmp _ => .jmp
  | .je _ => .je
  | .jz _ => .jz
  | .jne _ => .jne
  | .jnz _ => .jnz
  | .jg _ => .jg
  | .jge _ => .jge
  | .jl _ => .jl
  | .jle _ => .jle
  | .call _ => .call
  | .loop _ => .loop
  | .ret => .ret
  | .nop => .nop
  | .hlt => .hlt
  | .unknown _ _ => .unknown

/-- The first and second operand of an instruction's record (R82). -/
def Instr.operands : Instr → Operand × Operand
  | .movImm d n => (.reg d, .imm n)
  | .movReg d r => (.reg d, .reg r)
  | .push r => (.reg r, .none)
  | .pop r => (.reg r, .none)
  | .xchg a b => (.reg a, .reg b)
  | .addReg d r => (.reg d, .reg r)
  | .addImm d n => (.reg d, .imm n)
  | .subReg d r => (.reg d, .reg r)
  | .subImm d n => (.reg d, .imm n)
  | .andReg d r => (.reg d, .reg r)
  | .andImm d n => (.reg d, .imm n)
  | .orReg d r => (.reg d, .reg r)
  | .orImm d n => (.reg d, .imm n)
  | .xorReg d r => (.reg d, .reg r)
  | .xorImm d n => (.reg d, .imm n)
  | .cmpReg a b => (.reg a, .reg b)
  | .cmpImm a n => (.reg a, .imm n)
  | .inc r => (.reg r, .none)
  | .dec r => (.reg r, .none)
  | .mulReg r => (.reg r, .none)
  | .mulImm n => (.imm n, .none)
  | .divReg r => (.reg r, .none)
  | .divImm n => (.imm n, .none)
  | .neg r => (.reg r, .none)
  | .not r => (.reg r, .none)
  | .jmp t => (.imm t, .none)
  | .je t => (.imm t, .none)
  | .jz t => (.imm t, .none)
  | .jne t => (.imm t, .none)
  | .jnz t => (.imm t, .none)
  | .jg t => (.imm t, .none)
  | .jge t => (.imm t, .none)
  | .jl t => (.imm t, .none)
  | .jle t => (.imm t, .none)
  | .call t => (.imm t, .none)
  | .loop t => (.imm t, .none)
  | .ret => (.none, .none)
  | .nop => (.none, .none)
  | .hlt => (.none, .none)
  | .unknown a b => (a, b)

/-- The record form of an instruction: the inverse of `decodeRecord`. -/
def encodeRecord (i : Instr) : Mnemonic × RawOperand × RawOperand :=
  (i.mnemonic, i.operands.1.toRaw, i.operands.2.toRaw)

/-- Register numbers in the image, under the default encoder (R92): a segment register shares the number of a general
register. -/
def OpReg.number : OpReg → BitVec 3
  | .ax => 0 | .cx => 1 | .dx => 2 | .bx => 3
  | .sp => 4 | .bp => 5 | .si => 6 | .di => 7
  | .es => 0 | .cs => 1 | .ss => 2 | .ds => 3

/-- The general register with a number (R92): the one `decodeImage` reads. -/
def generalReg (n : BitVec 3) : OpReg :=
  match n with
  | 0 => .ax | 1 => .cx | 2 => .dx | 3 => .bx
  | 4 => .sp | 5 => .bp | 6 => .si | 7 => .di

/-- An opcode byte that includes a register: format R1, and the first byte of I3 (R94, R95). -/
def opcodeWithReg (op : BitVec 5) (r : OpReg) : Byte := op ++ r.number

/-- The default encoder `ENC` (R95): the byte image of an instruction. DESIGN CHOICE of the parameter's default (log 4). -/
def imageBytes : Instr → List Byte
  | .movImm d n => [opcodeWithReg 0b10111 d, lowByte n, highByte n]
  | .movReg _ _ => [0x89, 0xC0]
  | .push r => [opcodeWithReg 0b01010 r]
  | .pop r => [opcodeWithReg 0b01011 r]
  | .xchg _ _ => [0x87, 0xC0]
  | .addReg _ _ => [0x01, 0xC0]
  | .addImm _ _ => [0x01, 0xC0]
  | .subReg _ _ => [0x29, 0xC0]
  | .subImm _ _ => [0x29, 0xC0]
  | .andReg _ _ => [0x21, 0xC0]
  | .andImm _ _ => [0x21, 0xC0]
  | .orReg _ _ => [0x09, 0xC0]
  | .orImm _ _ => [0x09, 0xC0]
  | .xorReg _ _ => [0x31, 0xC0]
  | .xorImm _ _ => [0x31, 0xC0]
  | .cmpReg _ _ => [0x39, 0xC0]
  | .cmpImm _ _ => [0x39, 0xC0]
  | .inc r => [opcodeWithReg 0b01000 r]
  | .dec r => [opcodeWithReg 0b01001 r]
  | .mulReg _ => [0xF7, 0xE0]
  | .mulImm _ => [0xF7, 0xE0]
  | .divReg _ => [0xF7, 0xF0]
  | .divImm _ => [0xF7, 0xF0]
  | .neg _ => [0xF7, 0xD8]
  | .not _ => [0xF7, 0xD0]
  | .jmp _ => [0xE9, 0x00, 0x00]
  | .je _ => [0x74, 0x00, 0x00]
  | .jz _ => [0x74, 0x00, 0x00]
  | .jne _ => [0x75, 0x00, 0x00]
  | .jnz _ => [0x75, 0x00, 0x00]
  | .jg _ => [0x7F, 0x00, 0x00]
  | .jge _ => [0x7D, 0x00, 0x00]
  | .jl _ => [0x7C, 0x00, 0x00]
  | .jle _ => [0x7E, 0x00, 0x00]
  | .call _ => [0xE8, 0x00, 0x00]
  | .loop _ => [0xE2, 0x00, 0x00]
  | .ret => [0xC3]
  | .nop => [0x90]
  | .hlt => [0xF4]
  | .unknown _ _ => [0x90]

/-- The record of an instruction with its default image, at an address. -/
def Instr.toRecord (i : Instr) (addr : Nat) : Record :=
  { mn := i.mnemonic, op1 := i.operands.1.toRaw, op2 := i.operands.2.toRaw, bytes := imageBytes i, addr := addr }

/-- The length of an image, from its first byte, under the default encoder (R96). -/
def imageLength (b : Byte) : Option Nat :=
  if b.extractLsb' 3 5 = 0b10111#5 then some 3
  else if b.extractLsb' 3 5 = 0b01010#5 ∨ b.extractLsb' 3 5 = 0b01011#5 ∨ b.extractLsb' 3 5 = 0b01000#5
      ∨ b.extractLsb' 3 5 = 0b01001#5 then some 1
  else if b = 0xC3#8 ∨ b = 0x90#8 ∨ b = 0xF4#8 then some 1
  else if b = 0xE2#8 ∨ b = 0xE8#8 ∨ b = 0xE9#8 ∨ b = 0x74#8 ∨ b = 0x75#8 ∨ b = 0x7C#8 ∨ b = 0x7D#8 ∨ b = 0x7E#8
      ∨ b = 0x7F#8 then some 3
  else if b = 0x89#8 ∨ b = 0x87#8 ∨ b = 0x01#8 ∨ b = 0x29#8 ∨ b = 0x21#8 ∨ b = 0x09#8 ∨ b = 0x31#8 ∨ b = 0x39#8
      ∨ b = 0xF7#8 then some 2
  else none

/-- The one-byte rows of R95 (formats N1 and R1). `90` is NOP's image; an unknown mnemonic's fallback shares it. -/
def decodeImage1 (b : Byte) : Option Instr :=
  if b = 0xC3#8 then some .ret
  else if b = 0x90#8 then some .nop
  else if b = 0xF4#8 then some .hlt
  else if b.extractLsb' 3 5 = 0b01010#5 then some (.push (generalReg (b.extractLsb' 0 3)))
  else if b.extractLsb' 3 5 = 0b01011#5 then some (.pop (generalReg (b.extractLsb' 0 3)))
  else if b.extractLsb' 3 5 = 0b01000#5 then some (.inc (generalReg (b.extractLsb' 0 3)))
  else if b.extractLsb' 3 5 = 0b01001#5 then some (.dec (generalReg (b.extractLsb' 0 3)))
  else none

/-- The two-byte rows of R95 (format P2), each with its fixed placeholder; the operands are not in the image, so the
register form with AX stands for them all. -/
def decodeImage2 (b p : Byte) : Option Instr :=
  if p = 0xC0#8 then
    if b = 0x89#8 then some (.movReg .ax .ax)
    else if b = 0x87#8 then some (.xchg .ax .ax)
    else if b = 0x01#8 then some (.addReg .ax .ax)
    else if b = 0x29#8 then some (.subReg .ax .ax)
    else if b = 0x21#8 then some (.andReg .ax .ax)
    else if b = 0x09#8 then some (.orReg .ax .ax)
    else if b = 0x31#8 then some (.xorReg .ax .ax)
    else if b = 0x39#8 then some (.cmpReg .ax .ax)
    else none
  else if b = 0xF7#8 then
    if p = 0xE0#8 then some (.mulReg .ax)
    else if p = 0xF0#8 then some (.divReg .ax)
    else if p = 0xD8#8 then some (.neg .ax)
    else if p = 0xD0#8 then some (.not .ax)
    else none
  else none

/-- The three-byte rows of R95: I3, whose two bytes are the immediate, and B3, whose two bytes are 00 00 whatever the
target, so that target 0 stands for them all. `74` and `75` are read as JE and JNE, whose images JZ and JNZ share. -/
def decodeImage3 (b lo hi : Byte) : Option Instr :=
  if b.extractLsb' 3 5 = 0b10111#5 then some (.movImm (generalReg (b.extractLsb' 0 3)) (wordOf hi lo))
  else if lo = 0#8 ∧ hi = 0#8 then
    if b = 0xE9#8 then some (.jmp 0)
    else if b = 0x74#8 then some (.je 0)
    else if b = 0x75#8 then some (.jne 0)
    else if b = 0x7F#8 then some (.jg 0)
    else if b = 0x7D#8 then some (.jge 0)
    else if b = 0x7C#8 then some (.jl 0)
    else if b = 0x7E#8 then some (.jle 0)
    else if b = 0xE8#8 then some (.call 0)
    else if b = 0xE2#8 then some (.loop 0)
    else none
  else none

/-- Reading an image: the instruction, and the bytes after it. Total on any bytes, with a refusal by name. DESIGN CHOICE of
the operands that the image does not carry (log 9). -/
def decodeImage : List Byte → Except DecodeError (Instr × List Byte)
  | [] => .error .noBytes
  | b :: rest =>
    match imageLength b with
    | none => .error (.notAnOpcode b)
    | some 1 =>
      match decodeImage1 b with
      | some i => .ok (i, rest)
      | none => .error (.notAnOpcode b)
    | some 2 =>
      match rest with
      | p :: rest' =>
        match decodeImage2 b p with
        | some i => .ok (i, rest')
        | none => .error (.badPlaceholder b)
      | [] => .error (.truncated b)
    | some _ =>
      match rest with
      | lo :: hi :: rest' =>
        match decodeImage3 b lo hi with
        | some i => .ok (i, rest')
        | none => .error (.badPlaceholder b)
      | _ => .error (.truncated b)

/-- The bytes of a number over the whole instruction, first byte most significant, as opcode_table.json reads its match
and mask (30_encoding.md R95, last paragraph). -/
def tableBytes : Nat → Nat → List Byte
  | 0, _ => []
  | n + 1, w => BitVec.ofNat 8 (w / 256 ^ n) :: tableBytes n w

/-- The instruction `decodeImage` reads from an instruction whose bits, numbered as spec/opcode_table.json numbers
them, are `w`. -/
def decodeTableWord (nbits w : Nat) : Option Instr :=
  match decodeImage (tableBytes (nbits / 8) w) with
  | .ok (i, _) => some i
  | .error _ => none

end Sys2Proof
end

