-- ==== Sys2Proof/Machine/State.lean ====
section
/-! DEFINITION. The state of the machine as plain data (10_state.md R20), the outcomes other than a next state, and the
state at power-on. -/

namespace Sys2Proof.Machine

/-- Faults of the interface: none. `step()` never raises past the engine and has no error outcome of its own
(60_exceptions.md R247); every fault of the machine is a NEXT state with `halted` set (R230, R231). So nobody raises one
(log 13): that is safe and unsafe of nothing. -/
inductive Fault where
deriving DecidableEq, Repr

/-- Where the spec gives no meaning and says so. No refusal is raised by the meaning of an instruction. -/
inductive Refusal where
  /-- Raised by an arm of `exec` for an instruction without a meaning. Safe. No arm raises it. -/
  | notModelled (mnemonic : String)
  /-- Raised by `step` between a `reset()` call and the next `loadProgram`: the spec gives that step no meaning
  (70_reset_and_hazards.md R250, U4). Safe. -/
  | stepAfterReset
  /-- Raised by `loadProgram`, and by `step` on a store no load can make, for a record whose operand shape or size is
  not admitted (30_encoding.md R82, R253(2), R253(4), U1). Safe. -/
  | inadmissibleRecord (why : DecodeError)
  /-- Raised by `loadProgram` for a program of more than 0x10000 bytes (R253(3), U8). Safe. -/
  | programTooLarge (size : Nat)
  /-- Raised by the host's load of assembly text with a parse error (R90, R253(1)). Safe. -/
  | parseErrors (count : Nat)
  /-- Raised by a direct host write of a register with a value above 0xFFFF, or of a memory byte outside
  0..255 or 0..0xFFFFF (10_state.md R37, 20_memory.md R73, U5). Safe. -/
  | hostValueOutOfRange
deriving DecidableEq, Repr

/-- The kind of a memory access (20_memory.md R60). -/
inductive AccessKind where
  | read | write
deriving DecidableEq, Repr

/-- An access-log entry: kind, masked address, byte and size (R60). -/
structure Access where
  kind : AccessKind
  address : PhysAddr
  value : Byte
  size : Nat
deriving DecidableEq, Repr

/-- The phase of a bus event (40_step_cycle.md R133). -/
inductive BusPhase where
  | address | data
deriving DecidableEq, Repr

/-- The kind of a bus event (R133). -/
inductive BusKind where
  | fetch | read | write
deriving DecidableEq, Repr

/-- The data of a bus event: absent in an ADDRESS event, a byte or a 16-bit value in a DATA event (R133). -/
inductive BusData where
  | none
  | byte (b : Byte)
  | word (w : Word)
deriving DecidableEq, Repr

/-- A bus event: a record in the trace, not a signal (R133). -/
structure BusEvent where
  phase : BusPhase
  kind : BusKind
  address : PhysAddr
  data : BusData
deriving DecidableEq, Repr

/-- The offset's name in a breadcrumb: `IP` or `IP+1` (R123, R124). -/
inductive OffName where
  | ip | ipPlus1
deriving DecidableEq, Repr

/-- An address-calculation breadcrumb (R134). -/
structure Crumb where
  segName : Reg
  segValue : Word
  offName : OffName
  offValue : Word
  physical : PhysAddr
deriving DecidableEq, Repr

/-- The kinds of runtime fault (60_exceptions.md R232, R234, R235). `other` is kept and never produced. -/
inductive RuntimeFault where
  | divZero | other
deriving DecidableEq, Repr

/-- What a trace record's description is: the handler's text, the "unknown instruction" diagnostic, or a fault's
message (R129, R132, R231). -/
inductive Description where
  | effect (text : String)
  | unknownInstruction (text : String)
  | fault (kind : RuntimeFault) (text : String)
deriving DecidableEq, Repr

/-- The trace record of a step (R132). The changed names are lists without repeats in the order of R21 and R27. -/
structure TraceRecord where
  instruction : Record
  text : String
  before : CpuState
  after : CpuState
  changedRegs : List Reg
  changedFlags : List Flag
  bus : List BusEvent
  crumbs : List Crumb
  accesses : List Access
  description : Description
deriving DecidableEq, Repr

/-- What a handler's run came to (R125, R128, R129). -/
inductive HandlerResult where
  /-- the handler ended; its description is its own opaque text -/
  | done
  /-- no handler has the mnemonic -/
  | unknownInstruction
  /-- the handler raised a fault -/
  | raised (kind : RuntimeFault) (text : String)
deriving DecidableEq, Repr

/-- The execution context of the step being run (00_scope.md, "Execution context"; R121 line 7): the model's own field
(log 11). `size` is `I.size` of the record being executed; the rest is what the handler adds. Between steps it is idle. -/
structure Context where
  size : Nat
  changedRegs : List Reg
  changedFlags : List Flag
  result : HandlerResult
deriving DecidableEq, Repr

/-- The context between steps. -/
def Context.idle : Context := { size := 0, changedRegs := [], changedFlags := [], result := .done }

/-- The whole state of the machine (10_state.md R20), and two fields of the model's own, `awaitingLoad` and `ctx`. -/
structure State where
  /-- R20 items 1 to 4: registers, flags, halted, cycles -/
  cpu : CpuState
  /-- R20 item 5: the bytes that differ from 0x00, addresses rising; an unlisted byte is 0x00 (R38, R67) -/
  mem : List Host.Cell
  /-- R20 item 6: the access log, oldest first -/
  accessLog : List Access
  /-- R20 item 7: the instruction store, addresses rising -/
  istore : List (Nat × Record)
  /-- R20 item 7: the program list -/
  program : List Record
  /-- R20 item 8: the trace list, oldest first -/
  trace : List TraceRecord
  /-- the model's own: a `reset()` has been called and no `loadProgram` since (R250, log 1) -/
  awaitingLoad : Bool
  /-- the model's own: the execution context of the step being run (log 11) -/
  ctx : Context
deriving DecidableEq, Repr

/-- Every register 0 but SP = 0xFFFE (R38). -/
def Regs.reset : Regs :=
  { ax := 0, bx := 0, cx := 0, dx := 0, sp := 0xFFFE, bp := 0, si := 0, di := 0,
    cs := 0, ds := 0, ss := 0, es := 0, ip := 0 }

/-- Every flag false (R38, D4; log 7). -/
def Flags.reset : Flags := { zf := false, cf := false, sf := false, of := false }

/-- The CPU state after reset (R38). -/
def CpuState.reset : CpuState := { regs := Regs.reset, flags := Flags.reset, halted := false, cycles := 0 }

/-- The machine right after reset, which is the power-on state: the reset values of R38 with an empty store, an empty
program list and an empty trace (70_reset_and_hazards.md R251; log 1). -/
def State.reset : State :=
  { cpu := CpuState.reset, mem := [], accessLog := [], istore := [], program := [], trace := [],
    awaitingLoad := false, ctx := Context.idle }

end Sys2Proof.Machine
end

