-- ==== Sys2Proof/Machine/Memory.lean ====
section
/-! DEFINITION. Tables of address and value pairs in one canonical form (addresses strictly rising), and memory as
such a table, less its zero bytes. -/

namespace Sys2Proof.Machine

/-- The entry at an address, if there is one. -/
def Table.lookup {α : Type} (a : Nat) : List (Nat × α) → Option α
  | [] => none
  | (b, v) :: rest => if a = b then some v else Table.lookup a rest

/-- Put a value at an address, keeping the addresses strictly rising. -/
def Table.insert {α : Type} (a : Nat) (v : α) : List (Nat × α) → List (Nat × α)
  | [] => [(a, v)]
  | (b, w) :: rest =>
    if a < b then (a, v) :: (b, w) :: rest
    else if a = b then (a, v) :: rest
    else (b, w) :: Table.insert a v rest

/-- Take every entry at an address out (a rising table has at most one). -/
def Table.erase {α : Type} (a : Nat) : List (Nat × α) → List (Nat × α)
  | [] => []
  | (b, w) :: rest => if a = b then Table.erase a rest else (b, w) :: Table.erase a rest

/-- Every address of the table is above a bound. -/
def Table.above {α : Type} (a : Nat) (t : List (Nat × α)) : Bool := t.all fun e => decide (a < e.1)

/-- Addresses strictly rising. -/
def Table.rising {α : Type} : List (Nat × α) → Bool
  | [] => true
  | (a, _) :: rest => Table.above a rest && Table.rising rest

/-- Every address is a 20-bit physical address (20_memory.md R50). -/
def Table.inRange {α : Type} (t : List (Nat × α)) : Bool := t.all fun e => decide (e.1 < 0x100000)

/-- A byte of memory: an unlisted byte is 0x00 (10_state.md R38, 20_memory.md R67; log 8). -/
def Memory.read (m : List Host.Cell) (a : PhysAddr) : Byte := (Table.lookup a.toNat m).getD 0

/-- Write a byte of memory. Writing 0x00, what an unlisted byte reads as, takes the entry out. -/
def Memory.write (m : List Host.Cell) (a : PhysAddr) (v : Byte) : List Host.Cell :=
  if v = 0 then Table.erase a.toNat m else Table.insert a.toNat v m

/-- The canonical form: addresses strictly rising and inside the 1 MiB, no zero byte listed. -/
def Memory.wf (m : List Host.Cell) : Bool :=
  Table.rising m && Table.inRange m && m.all fun e => decide (e.2 ≠ 0)

end Sys2Proof.Machine
end

