-- ==== Sys2Proof/Machine/Ops.lean ====
section
/-! DEFINITION. The named operations over the state: registers, flags, marks, IP, memory and its log, the stack, the
halt, a runtime fault. Every read and write of a register or of memory goes through one of them. -/

namespace Sys2Proof.Machine

/-- The cell of the register file a name stands for (10_state.md R21). -/
def Regs.get (g : Regs) : Reg → Word
  | .ax => g.ax | .bx => g.bx | .cx => g.cx | .dx => g.dx
  | .sp => g.sp | .bp => g.bp | .si => g.si | .di => g.di
  | .cs => g.cs | .ds => g.ds | .ss => g.ss | .es => g.es
  | .ip => g.ip

/-- Write one cell of the register file. -/
def Regs.set (g : Regs) (r : Reg) (v : Word) : Regs :=
  match r with
  | .ax => { g with ax := v }
  | .bx => { g with bx := v }
  | .cx => { g with cx := v }
  | .dx => { g with dx := v }
  | .sp => { g with sp := v }
  | .bp => { g with bp := v }
  | .si => { g with si := v }
  | .di => { g with di := v }
  | .cs => { g with cs := v }
  | .ds => { g with ds := v }
  | .ss => { g with ss := v }
  | .es => { g with es := v }
  | .ip => { g with ip := v }

/-- One flag (R27). -/
def Flags.get (f : Flags) : Flag → Bool
  | .zf => f.zf | .cf => f.cf | .sf => f.sf | .of => f.of

/-- Write one flag. -/
def Flags.set (f : Flags) (n : Flag) (b : Bool) : Flags :=
  match n with
  | .zf => { f with zf := b }
  | .cf => { f with cf := b }
  | .sf => { f with sf := b }
  | .of => { f with of := b }

/-- `x[r]`: a read of a register, with no side effect (R22). -/
def State.reg (s : State) (r : Reg) : Word := s.cpu.regs.get r

/-- `F[f]`: a read of a flag. -/
def State.flag (s : State) (f : Flag) : Bool := s.cpu.flags.get f

/-- A write of a register with no mark: IP by `advance`, and the host's writes. The value is already masked (R22). -/
def State.setReg (s : State) (r : Reg) (v : Word) : State :=
  { s with cpu := { s.cpu with regs := s.cpu.regs.set r v } }

/-- A write of a flag with no mark. -/
def State.setFlag (s : State) (f : Flag) (b : Bool) : State :=
  { s with cpu := { s.cpu with flags := s.cpu.flags.set f b } }

/-- Add a name to a set of names kept as a sublist of `all`. -/
def addName {α : Type} [DecidableEq α] (all : List α) (x : α) (names : List α) : List α :=
  all.filter fun y => decide (y = x) || decide (y ∈ names)

/-- `mark_reg(r)`: add a name to the step's changed-register set (40_step_cycle.md R131). -/
def State.markReg (s : State) (r : Reg) : State :=
  { s with ctx := { s.ctx with changedRegs := addName Reg.all r s.ctx.changedRegs } }

/-- `mark_flag(f)`: add a name to the step's changed-flag set (R131). -/
def State.markFlag (s : State) (f : Flag) : State :=
  { s with ctx := { s.ctx with changedFlags := addName Flag.all f s.ctx.changedFlags } }

/-- `x[r] <- v` as an instruction's pseudocode writes it: the default DIRTY_POLICY marks each register it assigns,
whether or not the value differs (R131; log 6). -/
def State.assign (s : State) (r : Reg) (v : Word) : State := (s.setReg r v).markReg r

/-- `F[f] <- b` as an instruction's pseudocode writes it, with its mark (R131; log 6). -/
def State.assignFlag (s : State) (f : Flag) (b : Bool) : State := (s.setFlag f b).markFlag f

/-- `advance()`: IP plus the record's own length, wrapping; IP is not marked (R127, R131). -/
def State.advance (s : State) : State := s.setReg .ip (w16 ((s.reg .ip).toNat + s.ctx.size : Nat))

/-- `pc <- t` of a transfer: IP is marked (R131, R185). -/
def State.jumpTo (s : State) (t : Word) : State := s.assign .ip t

/-- The engine's transition from ready to halted (R120). -/
def State.halt (s : State) : State := { s with cpu := { s.cpu with halted := true } }

/-- Record what the handler's run came to. -/
def State.setResult (s : State) (r : HandlerResult) : State := { s with ctx := { s.ctx with result := r } }

/-- `raise Fault(kind, msg)` and its capture: `halted <- true` and the message becomes the description; nothing is
rolled back and nothing else is written (60_exceptions.md R231, R238; 40_step_cycle.md R128). -/
def State.raiseFault (s : State) (kind : RuntimeFault) (text : String) : State :=
  s.halt.setResult (.raised kind text)

/-- The dispatcher's path for a mnemonic in no handler table: `advance()` and the "unknown instruction" diagnostic; no
halt (R129). -/
def State.unknownInstruction (s : State) : State := (s.setResult .unknownInstruction).advance

/-- `LogPush(e)`: append; beyond the capacity the oldest entry is dropped (20_memory.md R60). -/
def pushAccess (log : List Access) (e : Access) : List Access :=
  if (log ++ [e]).length > Config.accessLogCapacity then (log ++ [e]).tail else log ++ [e]

/-- `LogPush(e)` on the state. -/
def State.logPush (s : State) (e : Access) : State := { s with accessLog := pushAccess s.accessLog e }

/-- `clearAccessLog` (R61). -/
def State.clearLog (s : State) : State := { s with accessLog := [] }

/-- `Peek(addr, 1)`: an unlogged read of a byte (R59). -/
def State.peekByte (s : State) (a : PhysAddr) : Byte := Memory.read s.mem a

/-- `Peek(addr, 2)`: an unlogged read of a word; the high byte is at `w20(addr + 1)` (R59). -/
def State.peekWord (s : State) (a : PhysAddr) : Word := wordOf (s.peekByte (a + 1)) (s.peekByte a)

/-- A write of a byte of memory with no log entry. -/
def State.pokeByte (s : State) (a : PhysAddr) (v : Byte) : State := { s with mem := Memory.write s.mem a v }

/-- The state after `MemRead(addr, 1)`: one READ entry (R55). -/
def State.readByte (s : State) (a : PhysAddr) : State :=
  s.logPush { kind := .read, address := a, value := s.peekByte a, size := 1 }

/-- `MemWrite(addr, 1, v)`: the byte, and one WRITE entry (R56). -/
def State.writeByte (s : State) (a : PhysAddr) (v : Byte) : State :=
  (s.pokeByte a v).logPush { kind := .write, address := a, value := v, size := 1 }

/-- The state after `MemRead(addr, 2)`: low byte first, then high byte (R57). Its value is `peekWord`, since a read
changes no byte (R64). -/
def State.readWord (s : State) (a : PhysAddr) : State := (s.readByte a).readByte (a + 1)

/-- `MemWrite(addr, 2, v)`: low byte first, then high byte at `w20(addr + 1)` (R58, R62). -/
def State.writeWord (s : State) (a : PhysAddr) (v : Word) : State :=
  (s.writeByte a (lowByte v)).writeByte (a + 1) (highByte v)

/-- The physical address of the top of the stack, SS:SP (20_memory.md R53, 44_data_transfer.md R213). -/
def State.stackTop (s : State) : PhysAddr := phys (s.reg .ss) (s.reg .sp)

/-- Where `Push16` stores its word: SS:(SP - 2), the offset wrapping at 16 bits (R213). -/
def State.pushSlot (s : State) : PhysAddr := phys (s.reg .ss) (s.reg .sp - 2)

/-- `Push16(v)`: SP goes down by 2, then the word is written at SS:SP (R213; log 21). -/
def State.push16 (s : State) (v : Word) : State :=
  let s1 := s.assign .sp (s.reg .sp - 2)
  s1.writeWord s1.stackTop v

/-- The word `Pop16()` returns: the one at SS:SP (R214). -/
def State.popWord (s : State) : Word := s.peekWord s.stackTop

/-- The state after `Pop16()`: the word at SS:SP is read, then SP goes up by 2 (R214; log 21). -/
def State.pop16 (s : State) : State :=
  let s1 := s.readWord s.stackTop
  s1.assign .sp (s1.reg .sp + 2)

end Sys2Proof.Machine
end

