-- ==== Sys2Proof/Machine/Operands.lean ====
section
/-! DEFINITION. The operand forms (30_encoding.md R80, R84): register, immediate, absent. There is no memory operand
(44_data_transfer.md R210). -/

namespace Sys2Proof.Machine

/-- `val(op)`: "register name -> value, immediate number -> itself, absent -> 0" (40_step_cycle.md R126; log 26). -/
def State.val (s : State) : Operand → Word
  | .reg r => s.reg r.toReg
  | .imm n => n
  | .none => 0

/-- The destination operand, always a register, written with its mark (R84, R131). -/
def State.assignOp (s : State) (d : OpReg) (v : Word) : State := s.assign d.toReg v

end Sys2Proof.Machine
end

