-- ==== Sys2Proof/Machine/Flags.lean ====
section
/-! DEFINITION. The flag computations (10_state.md R29, R30) and the jump conditions (43_control_flow.md R200). -/

namespace Sys2Proof.Machine

/-- ZF of a result: it is 0 (R29; log 23). -/
def zeroFlag (v : Word) : Bool := decide (v = 0)

/-- SF of a result: its bit 15 (R29; log 23). -/
def signFlag (v : Word) : Bool := v.getLsbD 15

/-- CF of ADD: the raw sum is above 0xFFFF (R29, 41_arithmetic.md R151). -/
def addCarry (a b : Word) : Bool := decide (a.toNat + b.toNat > 0xFFFF)

/-- CF of SUB and CMP: the raw difference is below 0 (R29, R152). -/
def subBorrow (a b : Word) : Bool := decide ((a.toNat : Int) - (b.toNat : Int) < 0)

/-- CF and OF of MUL: the high half of the product is non-zero (R29, R156). -/
def mulHigh (hi : Word) : Bool := decide (hi ≠ 0)

/-- `set_zs(v)` (R29). -/
def State.setZs (s : State) (v : Word) : State := (s.assignFlag .zf (zeroFlag v)).assignFlag .sf (signFlag v)

/-- The condition of JE and JZ (R200). -/
def condE (s : State) : Bool := s.flag .zf

/-- The condition of JNE and JNZ (R200). -/
def condNe (s : State) : Bool := !s.flag .zf

/-- The condition of JG (R191, R200). -/
def condG (s : State) : Bool := !s.flag .zf && (s.flag .sf == s.flag .of)

/-- The condition of JGE (R192, R200). -/
def condGe (s : State) : Bool := s.flag .sf == s.flag .of

/-- The condition of JL (R193, R200). -/
def condL (s : State) : Bool := s.flag .sf != s.flag .of

/-- The condition of JLE (R194, R200). -/
def condLe (s : State) : Bool := s.flag .zf || (s.flag .sf != s.flag .of)

end Sys2Proof.Machine
end

