-- ==== Sys2Proof/Machine/Arithmetic.lean ====
section
/-! DEFINITION. The arithmetic family: ADD, SUB, INC, DEC, NEG, MUL, DIV (41_arithmetic.md). Each operation is written
once over the destination and the operand's value; an instruction's meaning is that operation on its own operands. -/

namespace Sys2Proof.Machine

/-- ADD (R151): both reads precede the write; CF from the raw sum; OF is not written (R30). -/
def addTo (d : OpReg) (b : Word) (s : State) : State :=
  let a := s.reg d.toReg
  let raw : Nat := a.toNat + b.toNat
  let res := w16 raw
  (((s.assignOp d res).assignFlag .cf (addCarry a b)).setZs res).advance

/-- SUB (R152): CF is the borrow of the raw difference; OF is not written (R30). -/
def subFrom (d : OpReg) (b : Word) (s : State) : State :=
  let a := s.reg d.toReg
  let raw : Int := (a.toNat : Int) - (b.toNat : Int)
  let res := w16 raw
  (((s.assignOp d res).assignFlag .cf (subBorrow a b)).setZs res).advance

/-- INC, DEC, NEG (R153 to R155): the result is written, ZF and SF from it; CF and OF are not written. -/
def unaryWith (r : OpReg) (res : Word) (s : State) : State := ((s.assignOp r res).setZs res).advance

/-- MUL (R156): the multiplier is read before any write; DX:AX takes the exact product; CF = OF = high half non-zero;
ZF and SF are not written. -/
def mulBy (m : Word) (s : State) : State :=
  let prod : Nat := (s.reg .ax).toNat * m.toNat
  let lo : Word := BitVec.ofNat 16 prod
  let hi : Word := BitVec.ofNat 16 (prod / 0x10000)
  ((((s.assign .ax lo).assign .dx hi).assignFlag .cf (mulHigh hi)).assignFlag .of (mulHigh hi)).advance

/-- DIV (R157): a divisor of 0 raises DIV_ZERO before anything is written (R232); else DX:AX is divided as an unsigned
32-bit number, AX takes the low 16 bits of the quotient and DX the remainder; no flag is written (log 19). -/
def divBy (d : Word) (s : State) : State :=
  if d = 0 then s.raiseFault .divZero "division by zero"
  else
    let n : Nat := (s.reg .dx).toNat * 65536 + (s.reg .ax).toNat
    let q : Nat := n / d.toNat
    let rem : Nat := n % d.toNat
    ((s.assign .ax (w16 q)).assign .dx (w16 rem)).advance

/-- ADD reg, reg (R151). -/
def execAddReg (d r : OpReg) (s : State) : Host.Outcome State Fault Refusal := .next (addTo d (s.val (.reg r)) s)

/-- ADD reg, imm (R151). -/
def execAddImm (d : OpReg) (n : Word) (s : State) : Host.Outcome State Fault Refusal := .next (addTo d (s.val (.imm n)) s)

/-- SUB reg, reg (R152). -/
def execSubReg (d r : OpReg) (s : State) : Host.Outcome State Fault Refusal := .next (subFrom d (s.val (.reg r)) s)

/-- SUB reg, imm (R152). -/
def execSubImm (d : OpReg) (n : Word) (s : State) : Host.Outcome State Fault Refusal := .next (subFrom d (s.val (.imm n)) s)

/-- INC reg (R153). -/
def execInc (r : OpReg) (s : State) : Host.Outcome State Fault Refusal :=
  .next (unaryWith r (w16 ((s.reg r.toReg).toNat + 1 : Int)) s)

/-- DEC reg (R154). -/
def execDec (r : OpReg) (s : State) : Host.Outcome State Fault Refusal :=
  .next (unaryWith r (w16 ((s.reg r.toReg).toNat - 1 : Int)) s)

/-- NEG reg (R155): `w16(0 - x[r])`; CF is not written (log 20). -/
def execNeg (r : OpReg) (s : State) : Host.Outcome State Fault Refusal :=
  .next (unaryWith r (w16 (0 - (s.reg r.toReg).toNat : Int)) s)

/-- MUL reg (R156). -/
def execMulReg (r : OpReg) (s : State) : Host.Outcome State Fault Refusal := .next (mulBy (s.val (.reg r)) s)

/-- MUL imm (R156, D39). -/
def execMulImm (n : Word) (s : State) : Host.Outcome State Fault Refusal := .next (mulBy (s.val (.imm n)) s)

/-- DIV reg (R157). -/
def execDivReg (r : OpReg) (s : State) : Host.Outcome State Fault Refusal := .next (divBy (s.val (.reg r)) s)

/-- DIV imm (R157, D39). -/
def execDivImm (n : Word) (s : State) : Host.Outcome State Fault Refusal := .next (divBy (s.val (.imm n)) s)

end Sys2Proof.Machine
end

