-- ==== Sys2Proof/Machine/Control.lean ====
section
/-! DEFINITION. The control-flow family: JMP, the conditional jumps, CALL, RET, LOOP, NOP, HLT (43_control_flow.md). -/

namespace Sys2Proof.Machine

/-- A conditional transfer (R185): `pc <- t` when the condition holds, else `advance()`. -/
def branch (taken : Bool) (t : Word) (s : State) : State := if taken then s.jumpTo t else s.advance

/-- The return offset CALL pushes: `w16(pc + I.size)` (R195). -/
def State.returnOffset (s : State) : Word := w16 ((s.reg .ip).toNat + s.ctx.size : Nat)

/-- JMP (R186). -/
def execJmp (t : Word) (s : State) : Host.Outcome State Fault Refusal := .next (s.jumpTo t)

/-- JE (R187). -/
def execJe (t : Word) (s : State) : Host.Outcome State Fault Refusal := .next (branch (condE s) t s)

/-- JZ (R188): JE under a second mnemonic. -/
def execJz (t : Word) (s : State) : Host.Outcome State Fault Refusal := .next (branch (condE s) t s)

/-- JNE (R189). -/
def execJne (t : Word) (s : State) : Host.Outcome State Fault Refusal := .next (branch (condNe s) t s)

/-- JNZ (R190): JNE under a second mnemonic. -/
def execJnz (t : Word) (s : State) : Host.Outcome State Fault Refusal := .next (branch (condNe s) t s)

/-- JG (R191). -/
def execJg (t : Word) (s : State) : Host.Outcome State Fault Refusal := .next (branch (condG s) t s)

/-- JGE (R192). -/
def execJge (t : Word) (s : State) : Host.Outcome State Fault Refusal := .next (branch (condGe s) t s)

/-- JL (R193). -/
def execJl (t : Word) (s : State) : Host.Outcome State Fault Refusal := .next (branch (condL s) t s)

/-- JLE (R194). -/
def execJle (t : Word) (s : State) : Host.Outcome State Fault Refusal := .next (branch (condLe s) t s)

/-- CALL (R195): the return offset is pushed, then IP takes the target; SP and IP are marked. -/
def execCall (t : Word) (s : State) : Host.Outcome State Fault Refusal :=
  .next ((s.push16 s.returnOffset).jumpTo t)

/-- LOOP (R197): CX goes down by 1 first, marked on both paths; the transfer is taken when it is not 0. No flag. -/
def execLoop (t : Word) (s : State) : Host.Outcome State Fault Refusal :=
  let c := w16 ((s.reg .cx).toNat - 1 : Int)
  .next (branch (decide (c ≠ 0)) t (s.assign .cx c))

/-- RET (R196): IP takes the word popped; SP and IP are marked. -/
def execRet (s : State) : Host.Outcome State Fault Refusal := .next (s.pop16.jumpTo s.popWord)

/-- NOP (R198). -/
def execNop (s : State) : Host.Outcome State Fault Refusal := .next s.advance

/-- HLT (R199): `halted <- true`; IP advances only under the parameter HLT_ADVANCES_IP (log 3). -/
def execHlt (s : State) : Host.Outcome State Fault Refusal :=
  .next (if Config.hltAdvancesIp then s.halt.advance else s.halt)

end Sys2Proof.Machine
end

