-- ==== Sys2Proof/Machine/Logic.lean ====
section
/-! DEFINITION. The logic family: AND, OR, XOR, NOT, CMP (42_logic.md). -/

namespace Sys2Proof.Machine

/-- AND, OR, XOR (R171 to R173): the result is written, CF is forced false, ZF and SF from the result; OF is not
written (log 20). -/
def logicWith (d : OpReg) (res : Word) (s : State) : State :=
  (((s.assignOp d res).assignFlag .cf false).setZs res).advance

/-- CMP (R175): the flags of SUB; no register is written. -/
def compareWith (a : OpReg) (b : Word) (s : State) : State :=
  let x := s.reg a.toReg
  let raw : Int := (x.toNat : Int) - (b.toNat : Int)
  ((s.assignFlag .cf (subBorrow x b)).setZs (w16 raw)).advance

/-- AND reg, reg (R171). -/
def execAndReg (d r : OpReg) (s : State) : Host.Outcome State Fault Refusal :=
  .next (logicWith d (s.reg d.toReg &&& s.val (.reg r)) s)

/-- AND reg, imm (R171). -/
def execAndImm (d : OpReg) (n : Word) (s : State) : Host.Outcome State Fault Refusal :=
  .next (logicWith d (s.reg d.toReg &&& s.val (.imm n)) s)

/-- OR reg, reg (R172). -/
def execOrReg (d r : OpReg) (s : State) : Host.Outcome State Fault Refusal :=
  .next (logicWith d (s.reg d.toReg ||| s.val (.reg r)) s)

/-- OR reg, imm (R172). -/
def execOrImm (d : OpReg) (n : Word) (s : State) : Host.Outcome State Fault Refusal :=
  .next (logicWith d (s.reg d.toReg ||| s.val (.imm n)) s)

/-- XOR reg, reg (R173). -/
def execXorReg (d r : OpReg) (s : State) : Host.Outcome State Fault Refusal :=
  .next (logicWith d (s.reg d.toReg ^^^ s.val (.reg r)) s)

/-- XOR reg, imm (R173). -/
def execXorImm (d : OpReg) (n : Word) (s : State) : Host.Outcome State Fault Refusal :=
  .next (logicWith d (s.reg d.toReg ^^^ s.val (.imm n)) s)

/-- NOT reg (R174): `0xFFFF - x[r]`; no flag is written. -/
def execNot (r : OpReg) (s : State) : Host.Outcome State Fault Refusal :=
  .next (s.assignOp r (w16 (0xFFFF - (s.reg r.toReg).toNat : Int))).advance

/-- CMP reg, reg (R175). -/
def execCmpReg (a b : OpReg) (s : State) : Host.Outcome State Fault Refusal := .next (compareWith a (s.val (.reg b)) s)

/-- CMP reg, imm (R175). -/
def execCmpImm (a : OpReg) (n : Word) (s : State) : Host.Outcome State Fault Refusal :=
  .next (compareWith a (s.val (.imm n)) s)

end Sys2Proof.Machine
end

