-- ==== Sys2Proof/Machine/Transfer.lean ====
section
/-! DEFINITION. The data-transfer family: MOV, PUSH, POP, XCHG (44_data_transfer.md), and the unknown mnemonic
(40_step_cycle.md R129). -/

namespace Sys2Proof.Machine

/-- MOV (R211): `x[r] <- val(op2)`, no flag. -/
def moveTo (d : OpReg) (v : Word) (s : State) : State := (s.assignOp d v).advance

/-- MOV reg, imm (R211). -/
def execMovImm (d : OpReg) (n : Word) (s : State) : Host.Outcome State Fault Refusal := .next (moveTo d (s.val (.imm n)) s)

/-- MOV reg, reg (R211). -/
def execMovReg (d r : OpReg) (s : State) : Host.Outcome State Fault Refusal := .next (moveTo d (s.val (.reg r)) s)

/-- PUSH reg (R212): the register is read before SP changes (D14). -/
def execPush (r : OpReg) (s : State) : Host.Outcome State Fault Refusal := .next (s.push16 (s.reg r.toReg)).advance

/-- POP reg (R216): the register write follows the increment of SP (D14). -/
def execPop (r : OpReg) (s : State) : Host.Outcome State Fault Refusal := .next (s.pop16.assignOp r s.popWord).advance

/-- XCHG reg, reg (R215): accepted, not executed; the two registers are not exchanged. No handler reads the operands. -/
def execXchg (_a _b : OpReg) (s : State) : Host.Outcome State Fault Refusal := .next s.unknownInstruction

/-- A mnemonic outside the 30 (R129). -/
def execUnknown (_op1 _op2 : Operand) (s : State) : Host.Outcome State Fault Refusal := .next s.unknownInstruction

end Sys2Proof.Machine
end

