-- ==== Sys2Proof/Machine/Dispatch.lean ====
section
/-! DEFINITION. The dispatcher (40_step_cycle.md R125): one arm per instruction. The four handler tables are disjoint, so
their priority order has no effect. -/

namespace Sys2Proof.Machine

def exec (i : Instr) (s : State) : Host.Outcome State Fault Refusal :=
  match i with
  | .movImm d n => Sys2Proof.Machine.execMovImm d n s
  | .movReg d r => Sys2Proof.Machine.execMovReg d r s
  | .push r => Sys2Proof.Machine.execPush r s
  | .pop r => Sys2Proof.Machine.execPop r s
  | .xchg a b => Sys2Proof.Machine.execXchg a b s
  | .addReg d r => Sys2Proof.Machine.execAddReg d r s
  | .addImm d n => Sys2Proof.Machine.execAddImm d n s
  | .subReg d r => Sys2Proof.Machine.execSubReg d r s
  | .subImm d n => Sys2Proof.Machine.execSubImm d n s
  | .andReg d r => Sys2Proof.Machine.execAndReg d r s
  | .andImm d n => Sys2Proof.Machine.execAndImm d n s
  | .orReg d r => Sys2Proof.Machine.execOrReg d r s
  | .orImm d n => Sys2Proof.Machine.execOrImm d n s
  | .xorReg d r => Sys2Proof.Machine.execXorReg d r s
  | .xorImm d n => Sys2Proof.Machine.execXorImm d n s
  | .cmpReg a b => Sys2Proof.Machine.execCmpReg a b s
  | .cmpImm a n => Sys2Proof.Machine.execCmpImm a n s
  | .inc r => Sys2Proof.Machine.execInc r s
  | .dec r => Sys2Proof.Machine.execDec r s
  | .mulReg r => Sys2Proof.Machine.execMulReg r s
  | .mulImm n => Sys2Proof.Machine.execMulImm n s
  | .divReg r => Sys2Proof.Machine.execDivReg r s
  | .divImm n => Sys2Proof.Machine.execDivImm n s
  | .neg r => Sys2Proof.Machine.execNeg r s
  | .not r => Sys2Proof.Machine.execNot r s
  | .jmp t => Sys2Proof.Machine.execJmp t s
  | .je t => Sys2Proof.Machine.execJe t s
  | .jz t => Sys2Proof.Machine.execJz t s
  | .jne t => Sys2Proof.Machine.execJne t s
  | .jnz t => Sys2Proof.Machine.execJnz t s
  | .jg t => Sys2Proof.Machine.execJg t s
  | .jge t => Sys2Proof.Machine.execJge t s
  | .jl t => Sys2Proof.Machine.execJl t s
  | .jle t => Sys2Proof.Machine.execJle t s
  | .call t => Sys2Proof.Machine.execCall t s
  | .loop t => Sys2Proof.Machine.execLoop t s
  | .ret => Sys2Proof.Machine.execRet s
  | .nop => Sys2Proof.Machine.execNop s
  | .hlt => Sys2Proof.Machine.execHlt s
  | .unknown op1 op2 => Sys2Proof.Machine.execUnknown op1 op2 s

end Sys2Proof.Machine
end

