-- ==== Sys2Proof/Machine/Sequencer.lean ====
section
/-! DEFINITION. The fetch unit and the bus and trace sequencer: what a step does around the handler
(40_step_cycle.md R121 to R124, R130 to R134). -/

namespace Sys2Proof.Machine

/-- The fetch address, `phys(x[CS], x[IP])` (R122). -/
def State.fetchAddress (s : State) : PhysAddr := phys (s.reg .cs) (s.reg .ip)

/-- The record the fetch unit finds: the store is looked up at the fetch address; no memory byte is read and nothing is
logged (R122, 20_memory.md R66, R70). -/
def State.fetch (s : State) : Option Record := Table.lookup s.fetchAddress.toNat s.istore

/-- The first byte of a record's image, which the opcode-fetch DATA event carries (R123, D25). -/
def opcodeByte (r : Record) : Byte := r.bytes.getD 0 0

/-- `bytes[1] + 256*bytes[2]`, an absent third byte read as 0 (R124, D26; log 22). -/
def operandWord (r : Record) : Word := wordOf (r.bytes.getD 2 0) (r.bytes.getD 1 0)

/-- The two opcode-fetch events (R123). -/
def opcodeFetchEvents (a : PhysAddr) (r : Record) : List BusEvent :=
  [{ phase := .address, kind := .fetch, address := a, data := .none },
   { phase := .data, kind := .fetch, address := a, data := .byte (opcodeByte r) }]

/-- The operand-fetch events, for a record wider than one byte (R124). -/
def operandFetchEvents (a : PhysAddr) (r : Record) : List BusEvent :=
  if r.size > 1 then
    [{ phase := .address, kind := .fetch, address := a + 1, data := .none },
     { phase := .data, kind := .fetch, address := a + 1, data := .word (operandWord r) }]
  else []

/-- The breadcrumbs of the fetch: `CS:IP`, and `CS:IP+1` for a record wider than one byte (R123, R124, R134). -/
def fetchCrumbs (s : State) (r : Record) : List Crumb :=
  let a := s.fetchAddress
  let first : Crumb :=
    { segName := .cs, segValue := s.reg .cs, offName := .ip, offValue := s.reg .ip, physical := a }
  if r.size > 1 then
    [first, { segName := .cs, segValue := s.reg .cs, offName := .ipPlus1, offValue := s.reg .ip + 1, physical := a + 1 }]
  else [first]

/-- The kind of the bus events of a memory access (R130). -/
def AccessKind.toBusKind : AccessKind → BusKind
  | .read => .read
  | .write => .write

/-- The two memory bus events of one logged access, ADDRESS then DATA (R130, C6). -/
def accessEvents (e : Access) : List BusEvent :=
  [{ phase := .address, kind := e.kind.toBusKind, address := e.address, data := .none },
   { phase := .data, kind := e.kind.toBusKind, address := e.address, data := .byte e.value }]

/-- The whole bus list of a step: fetch events, then the memory events in log order (R123, R124, R130). -/
def busOf (a : PhysAddr) (r : Record) (accesses : List Access) : List BusEvent :=
  opcodeFetchEvents a r ++ operandFetchEvents a r ++ accesses.flatMap accessEvents

/-- The description of a step (R125, R129, R132): the handler's opaque text, the diagnostic, or the fault's message
(logs 12, 24). -/
def describe (r : Record) (before after : CpuState) : HandlerResult → Description
  | .done => .effect (Config.effectText r before after)
  | .unknownInstruction => .unknownInstruction "unknown instruction"
  | .raised kind text => .fault kind text

/-- Lines 5 to 7 of the step (R121): the access log is cleared, and the execution context is made for the record. -/
def State.beginStep (s : State) (r : Record) : State :=
  { s.clearLog with ctx := { size := r.size, changedRegs := [], changedFlags := [], result := .done } }

/-- The trace record of a step from `s`, whose handler ended in `t` (R121 lines 5, 8, 9, 11, 13, 14; R132). The
state-after snapshot is the one before the cycle count goes up (R137). -/
def traceRecord (s : State) (r : Record) (t : State) : TraceRecord :=
  { instruction := r
    text := Config.renderedText r
    before := s.cpu
    after := t.cpu
    changedRegs := t.ctx.changedRegs
    changedFlags := t.ctx.changedFlags
    bus := busOf s.fetchAddress r t.accessLog
    crumbs := fetchCrumbs s r
    accesses := t.accessLog
    description := describe r s.cpu t.cpu t.ctx.result }

/-- Lines 11 to 15 of the step (R121): one more cycle, the trace record appended, the context idle again. -/
def State.endStep (t : State) (s : State) (r : Record) : State :=
  { t with
    cpu := { t.cpu with cycles := t.cpu.cycles + 1 }
    trace := t.trace ++ [traceRecord s r t]
    ctx := Context.idle }

/-- Lines 5 to 15 of the step (R121): the handler of a decoded instruction, between `beginStep` and `endStep`. -/
def runRecord (s : State) (r : Record) (i : Instr) : Host.Outcome State Fault Refusal :=
  match exec i (s.beginStep r) with
  | .next t => .next (t.endStep s r)
  | .fault f => .fault f
  | .refused why => .refused why

/-- Lines 2 to 15 of the step (R121): a fetch miss sets `halted` and nothing else (60_exceptions.md R233); a record the
machine does not decode is refused (R82, U1; log 14; no load stores one). -/
def fetchAndRun (s : State) : Host.Outcome State Fault Refusal :=
  match s.fetch with
  | none => .next s.halt
  | some r =>
    match r.decode with
    | .ok i => runRecord s r i
    | .error why => .refused (.inadmissibleRecord why)

/-- One step (R121): nothing at all when halted (R120, R237), refused after a bare reset (70_reset_and_hazards.md R250;
logs 2, 26). -/
def stepOnce (s : State) : Host.Outcome State Fault Refusal :=
  if s.cpu.halted then .next s
  else if s.awaitingLoad then .refused .stepAfterReset
  else fetchAndRun s

/-- The instruction of a word of opcode_table.json placed where the next step fetches: its record in the store at
`phys(x[CS], x[IP])`, and the engine ready, as a load leaves it (R252 line 3; log 10). A word no image has changes
nothing. -/
def State.placeWord (s : State) (nbits w : Nat) : State :=
  match decodeTableWord nbits w with
  | none => s
  | some i =>
    { s with
      cpu := { s.cpu with halted := false }
      istore := Table.insert s.fetchAddress.toNat (i.toRecord s.fetchAddress.toNat) s.istore
      awaitingLoad := false }

end Sys2Proof.Machine
end

