-- ==== Sys2Proof/Machine/Step.lean ====
section
/-! DEFINITION. The step of the machine (40_step_cycle.md R121) and the host's way to place an instruction before it. -/

namespace Sys2Proof.Machine

/-- `step()`, the only transition of the core (R121). -/
def step (s : State) : Host.Outcome State Fault Refusal := stepOnce s

/-- `s` with the instruction of a table word where `step` fetches its next instruction (log 10). -/
def State.withFetchWord (s : State) (nbits w : Nat) : State := s.placeWord nbits w

end Sys2Proof.Machine
end

