-- ==== Sys2Proof/Machine/HostInterface.lean ====
section
/-! DEFINITION. The host interface (70_reset_and_hazards.md R250 to R256): reset, program load, run, the memory
accessors and the direct writes. The host acts only between steps (00_scope.md R4). -/

namespace Sys2Proof.Machine

/-- `reset()` (R250): every field at its reset value; whether the store, the program list and the trace are emptied is the
parameter RESET_CLEARS_PROGRAM; no step has a meaning until the next `loadProgram` (logs 1, 2). -/
def State.hostReset (s : State) : State :=
  { State.reset with
    istore := if Config.resetClearsProgram then [] else s.istore
    program := if Config.resetClearsProgram then [] else s.program
    trace := if Config.resetClearsProgram then [] else s.trace
    awaitingLoad := true }

/-- The address back-patch of a load: each record's `addr` becomes `phys(CS, off)`, `off` running (R252 line 5). -/
def patchAddresses (cs : Word) : Nat → List Record → List Record
  | _, [] => []
  | off, r :: rest =>
    { r with addr := (phys cs (BitVec.ofNat 16 off)).toNat } :: patchAddresses cs (off + r.size) rest

/-- The image bytes of one record, written one after the other through the logged byte write (R252 line 5). -/
def State.writeImage (s : State) (a : PhysAddr) : List Byte → State
  | [] => s
  | b :: rest => (s.writeByte a b).writeImage (a + 1) rest

/-- Line 5 of the load for records already given their addresses: the store entry, then the image (R252). -/
def State.loadRecords (s : State) : List Record → State
  | [] => s
  | r :: rest =>
    ({ s with istore := Table.insert r.addr r s.istore }.writeImage (BitVec.ofNat 20 r.addr) r.bytes).loadRecords rest

/-- Lines 1 to 3 of the load (R252): memory zero, log, trace and store empty, ready, cycles 0, IP 0; the twelve other
registers and the flags keep their values. -/
def State.clearForLoad (s : State) (p : List Record) : State :=
  { s with
    cpu := { s.cpu with regs := s.cpu.regs.set .ip 0, halted := false, cycles := 0 }
    mem := []
    accessLog := []
    istore := []
    program := p
    trace := []
    awaitingLoad := false
    ctx := Context.idle }

/-- Why a program is refused: its first inadmissible record, or its size (R253). -/
def loadRefusal : List Record → Option Refusal
  | [] => none
  | r :: rest =>
    match r.decode with
    | .error why => some (.inadmissibleRecord why)
    | .ok _ => loadRefusal rest

/-- `loadProgram(P)` (R252, R253, R254). The program list holds the records with their patched addresses (log 17). -/
def State.loadProgram (s : State) (p : List Record) : Host.Outcome State Fault Refusal :=
  match loadRefusal p with
  | some why => .refused why
  | none =>
    if programFits p then
      let placed := patchAddresses (s.reg .cs) 0 p
      .next ((s.clearForLoad placed).loadRecords placed)
    else .refused (.programTooLarge (programSize p))

/-- `run(maxSteps)` (40_step_cycle.md R135): steps until halted or the budget is used. -/
def run : Nat → State → Host.Outcome State Fault Refusal
  | 0, s => .next s
  | n + 1, s =>
    if s.cpu.halted then .next s
    else
      match step s with
      | .next t => run n t
      | .fault f => .fault f
      | .refused why => .refused why

/-- `run()` with its default budget (R135). -/
def runDefault (s : State) : Host.Outcome State Fault Refusal := run Config.defaultRunBudget s

/-- What `step()` returns to the host: the record it appended, or null (R121, R246). -/
def stepReturn (s : State) : Option TraceRecord :=
  match step s with
  | .next t => if s.trace.length < t.trace.length then t.trace.getLast? else none
  | _ => none

/-- An access of a host accessor, logged or not by the parameter HOST_ACCESS_LOGGED (20_memory.md R73; log 5). -/
def State.hostAccess (s t : State) : State := if Config.hostAccessLogged then t else { t with accessLog := s.accessLog }

/-- `getMemoryByte(addr)`: the byte at the masked address, and the state after (R55, R73). -/
def State.getMemoryByte (s : State) (addr : Int) : Byte × State :=
  (s.peekByte (w20 addr), s.hostAccess (s.readByte (w20 addr)))

/-- `getMemoryWord(addr)` (R57, R73). -/
def State.getMemoryWord (s : State) (addr : Int) : Word × State :=
  (s.peekWord (w20 addr), s.hostAccess (s.readWord (w20 addr)))

/-- `setMemoryByte(addr, val)`: address and value masked (R56, R73). -/
def State.setMemoryByte (s : State) (addr val : Int) : State := s.hostAccess (s.writeByte (w20 addr) (w8 val))

/-- `setMemoryWord(addr, val)` (R58, R73). -/
def State.setMemoryWord (s : State) (addr val : Int) : State := s.hostAccess (s.writeWord (w20 addr) (w16 val))

/-- A direct host write of a register: only a value already in 0..0xFFFF (10_state.md R37). -/
def State.hostSetReg (s : State) (r : Reg) (v : Nat) : Host.Outcome State Fault Refusal :=
  if v ≤ 0xFFFF then .next (s.setReg r (BitVec.ofNat 16 v)) else .refused .hostValueOutOfRange

/-- A direct host write of `memory.data`: only a byte value at an address in 0..0xFFFFF, unmasked and unlogged (R37,
R73). -/
def State.hostSetData (s : State) (addr v : Nat) : Host.Outcome State Fault Refusal :=
  if addr ≤ 0xFFFFF ∧ v ≤ 0xFF then .next (s.pokeByte (BitVec.ofNat 20 addr) (BitVec.ofNat 8 v))
  else .refused .hostValueOutOfRange

/-- The calls of the host (R256; log 16). Reads of the state, the program and the trace change nothing and are not listed. -/
inductive HostCall where
  | reset
  | loadProgram (p : List Record)
  | step
  | run (maxSteps : Nat)
  | getMemoryByte (addr : Int)
  | getMemoryWord (addr : Int)
  | setMemoryByte (addr val : Int)
  | setMemoryWord (addr val : Int)
  | setReg (r : Reg) (v : Nat)
  | setData (addr v : Nat)
deriving DecidableEq, Repr

/-- What a host call makes of the state (R256). -/
def hostCall (c : HostCall) (s : State) : Host.Outcome State Fault Refusal :=
  match c with
  | .reset => .next s.hostReset
  | .loadProgram p => s.loadProgram p
  | .step => step s
  | .run n => run n s
  | .getMemoryByte a => .next (s.getMemoryByte a).2
  | .getMemoryWord a => .next (s.getMemoryWord a).2
  | .setMemoryByte a v => .next (s.setMemoryByte a v)
  | .setMemoryWord a v => .next (s.setMemoryWord a v)
  | .setReg r v => s.hostSetReg r v
  | .setData a v => s.hostSetData a v

end Sys2Proof.Machine
end

