-- ==== Sys2Proof/Machine/Assembler.lean ====
section
/-! DEFINITION. The assembler, the toolchain that makes the records a load takes (30_encoding.md R85 to R91, R93). It lies
outside the hardware (00_scope.md R3(c)) and no step uses it; it is here as far as the spec describes it. Text is a list
of characters. The conventions the spec leaves open are in logs 25, 27 and 28. -/

namespace Sys2Proof.Machine

/-- Assembly text, or a part of it. -/
abbrev Text := List Char

/-- The kinds of parse error (R90). -/
inductive ParseErrorKind where
  | unknownMnemonic | invalidLabel | duplicateLabel | invalidOperand | literalOutOfRange | unresolvedLabel
deriving DecidableEq, Repr

/-- A parse error: its 1-based source line, its kind and the raw source line (R90). -/
structure ParseError where
  line : Nat
  kind : ParseErrorKind
  raw : Text
deriving DecidableEq, Repr

/-- An operand after pass 1: as a record holds it, or a label deferred to pass 2 (R86(4)). -/
inductive SymOperand where
  | raw (o : RawOperand)
  | label (name : Text)
deriving DecidableEq, Repr

/-- An accepted instruction line after pass 1 (R85). -/
structure SymInstr where
  line : Nat
  raw : Text
  mn : Mnemonic
  op1 : SymOperand
  op2 : SymOperand
deriving DecidableEq, Repr

/-- What pass 1 makes of the lines, in order: label declarations and instructions (R85). -/
inductive Item where
  | label (name : Text)
  | instr (i : SymInstr)
deriving DecidableEq, Repr

/-- What a line is, if it is no error (R85). -/
inductive Line where
  | blank
  | label (name : Text)
  | instr (mn : Mnemonic) (op1 op2 : SymOperand)
deriving DecidableEq, Repr

/-- The assembler's result: the records, the label-to-offset map and the errors in order (R89). -/
structure ParseResult where
  records : List Record
  labels : List (Text × Nat)
  errors : List ParseError
deriving DecidableEq, Repr

/-- White space within a line. -/
def isBlankChar (c : Char) : Bool := c == ' ' || c == '\t' || c == '\r'

/-- A text without the white space at its two ends. -/
def trimText (t : Text) : Text := ((t.dropWhile isBlankChar).reverse.dropWhile isBlankChar).reverse

/-- The pieces of a text between separators. -/
def splitText (sep : Char) : Text → List Text
  | [] => [[]]
  | c :: rest =>
    if c == sep then [] :: splitText sep rest
    else
      match splitText sep rest with
      | [] => [[c]]
      | piece :: pieces => (c :: piece) :: pieces

/-- A comment runs from `;` to the end of the line (R85). -/
def stripComment (t : Text) : Text := t.takeWhile fun c => c != ';'

/-- The capital of a letter; register names and mnemonics are matched without regard to case (R85, R86). -/
def upperText (t : Text) : Text := t.map Char.toUpper

/-- The register names (R80, R86(1)). -/
def registerNames : List (Text × Reg) :=
  [("AX".toList, .ax), ("BX".toList, .bx), ("CX".toList, .cx), ("DX".toList, .dx),
   ("SP".toList, .sp), ("BP".toList, .bp), ("SI".toList, .si), ("DI".toList, .di),
   ("CS".toList, .cs), ("DS".toList, .ds), ("SS".toList, .ss), ("ES".toList, .es)]

/-- The 30 mnemonics (R81). -/
def mnemonicNames : List (Text × Mnemonic) :=
  [("MOV".toList, .mov), ("PUSH".toList, .push), ("POP".toList, .pop), ("XCHG".toList, .xchg),
   ("ADD".toList, .add), ("SUB".toList, .sub), ("INC".toList, .inc), ("DEC".toList, .dec),
   ("MUL".toList, .mul), ("DIV".toList, .div), ("NEG".toList, .neg), ("AND".toList, .and),
   ("OR".toList, .or), ("XOR".toList, .xor), ("NOT".toList, .not), ("CMP".toList, .cmp)]
  ++ [("JMP".toList, .jmp), ("JE".toList, .je), ("JZ".toList, .jz), ("JNE".toList, .jne),
   ("JNZ".toList, .jnz), ("JG".toList, .jg), ("JGE".toList, .jge), ("JL".toList, .jl),
   ("JLE".toList, .jle), ("CALL".toList, .call), ("RET".toList, .ret), ("LOOP".toList, .loop),
   ("NOP".toList, .nop), ("HLT".toList, .hlt)]

/-- The entry of a name in a list of names, compared letter for letter. Labels are looked up as they are written: DESIGN
CHOICE that their case counts, unsafe (91_not_in_source.md N18; log 27). -/
def findName {α : Type} (t : Text) : List (Text × α) → Option α
  | [] => none
  | (name, v) :: rest => if name == t then some v else findName t rest

/-- The register of a token (R86(1)). -/
def registerOf (t : Text) : Option Reg := findName (upperText t) registerNames

/-- The mnemonic of a token (R81, R85). -/
def mnemonicOf (t : Text) : Option Mnemonic := findName (upperText t) mnemonicNames

/-- The value of a decimal digit. -/
def decDigit (c : Char) : Option Nat := if c.isDigit then some (c.toNat - '0'.toNat) else none

/-- The value of a hexadecimal digit. -/
def hexDigit (c : Char) : Option Nat :=
  if c.isDigit then some (c.toNat - '0'.toNat)
  else if 'A' ≤ c.toUpper ∧ c.toUpper ≤ 'F' then some (c.toUpper.toNat - 'A'.toNat + 10)
  else none

/-- The number a list of digits spells, most significant first. -/
def digitsValue (digit : Char → Option Nat) (base : Nat) : Nat → Text → Option Nat
  | acc, [] => some acc
  | acc, c :: rest =>
    match digit c with
    | some d => digitsValue digit base (acc * base + d) rest
    | none => none

/-- A literal of at least one digit. -/
def literalOf (digit : Char → Option Nat) (base : Nat) (t : Text) : Option Nat :=
  if t.isEmpty then none else digitsValue digit base 0 t

/-- The literal of a token: decimal digits (R86(2)), else `0x` and hex digits, else hex digits and a trailing `h` or `H`
(R86(3)). -/
def tokenLiteral (t : Text) : Option Nat :=
  match literalOf decDigit 10 t with
  | some n => some n
  | none =>
    match t with
    | '0' :: 'x' :: digits => literalOf hexDigit 16 digits
    | _ =>
      match t.reverse with
      | 'h' :: digits => literalOf hexDigit 16 digits.reverse
      | 'H' :: digits => literalOf hexDigit 16 digits.reverse
      | _ => none

/-- A letter of an identifier (R87). -/
def isLetter (c : Char) : Bool := c.isAlpha || c == '_'

/-- A letter or `_`, then letters, digits or `_` (R87). -/
def isIdentifier : Text → Bool
  | [] => false
  | c :: rest => isLetter c && rest.all fun d => isLetter d || d.isDigit

/-- One operand token, by the first rule of R86 that matches. -/
def parseOperand (t : Text) : Except ParseErrorKind SymOperand :=
  match registerOf t with
  | some r => .ok (.raw (.reg r))
  | none =>
    match tokenLiteral t with
    | some n => if n ≤ 0xFFFF then .ok (.raw (.imm (BitVec.ofNat 16 n))) else .error .literalOutOfRange
    | none => if isIdentifier t then .ok (.label t) else .error .invalidOperand

/-- The operands of an instruction line, none, one or two (R80, R85). DESIGN CHOICE, unsafe: the first bad operand is the
line's one error (log 28). -/
def parseOperands (t : Text) : Except ParseErrorKind (SymOperand × SymOperand) :=
  if t.isEmpty then .ok (.raw .none, .raw .none)
  else
    match (splitText ',' t).map trimText with
    | [a] => do
      let x ← parseOperand a
      pure (x, .raw .none)
    | [a, b] => do
      let x ← parseOperand a
      let y ← parseOperand b
      pure (x, y)
    | _ => .error .invalidOperand

/-- A label name: an identifier that is no register and no mnemonic name, and not declared before (R87). DESIGN CHOICE,
unsafe: the register names are the twelve of the operands, so `IP` is a label, and labels declared before are compared with
regard to case (log 27). -/
def checkLabel (seen : List Text) (name : Text) : Except ParseErrorKind Text :=
  if !isIdentifier name || (registerOf name).isSome || (mnemonicOf name).isSome then .error .invalidLabel
  else if seen.contains name then .error .duplicateLabel
  else .ok name

/-- One line (R85): strip the comment, skip a blank line, detect a label declaration, else a mnemonic and its
operands. -/
def parseLine (seen : List Text) (t : Text) : Except ParseErrorKind Line :=
  let body := trimText (stripComment t)
  if body.isEmpty then .ok .blank
  else if body.getLast? == some ':' then (checkLabel seen (trimText body.dropLast)).map Line.label
  else
    match mnemonicOf (body.takeWhile fun c => !isBlankChar c) with
    | none => .error .unknownMnemonic
    | some mn =>
      (parseOperands (trimText (body.dropWhile fun c => !isBlankChar c))).map fun ops => Line.instr mn ops.1 ops.2

/-- Pass 1 over the lines from line `n` on, with the labels declared so far (R85); errors accumulate (R90), one a
line (log 28). -/
def pass1 : Nat → List Text → List Text → List Item × List ParseError
  | _, _, [] => ([], [])
  | n, seen, t :: rest =>
    match parseLine seen t with
    | .ok .blank => pass1 (n + 1) seen rest
    | .ok (.label name) =>
      let r := pass1 (n + 1) (name :: seen) rest
      (.label name :: r.1, r.2)
    | .ok (.instr mn a b) =>
      let r := pass1 (n + 1) seen rest
      (.instr { line := n, raw := t, mn := mn, op1 := a, op2 := b } :: r.1, r.2)
    | .error kind =>
      let r := pass1 (n + 1) seen rest
      (r.1, { line := n, kind := kind, raw := t } :: r.2)

/-- The operand the encoder sees: a label is not resolved yet, so it reads as 0 (R88, R93). -/
def SymOperand.placeholder : SymOperand → RawOperand
  | .raw o => o
  | .label _ => .imm 0

/-- The image of an accepted line, made before labels are resolved (R88, R93), by an encoder `enc`; a shape the encoder
has no row for takes the no-op fallback (R94). -/
def SymInstr.image (enc : Instr → List Byte) (i : SymInstr) : List Byte :=
  match decodeRecord i.mn i.op1.placeholder i.op2.placeholder with
  | .ok j => enc j
  | .error _ => [0x90]

/-- The offset of each label: that of the instruction after its declaration (R87, R89). -/
def labelOffsets (enc : Instr → List Byte) : Nat → List Item → List (Text × Nat)
  | _, [] => []
  | off, .label name :: rest => (name, off) :: labelOffsets enc off rest
  | off, .instr i :: rest => labelOffsets enc (off + (i.image enc).length) rest

/-- A deferred operand replaced by `imm offset(label)` (R89). -/
def resolveOperand (labels : List (Text × Nat)) : SymOperand → Except ParseErrorKind RawOperand
  | .raw o => .ok o
  | .label name =>
    match findName name labels with
    | none => .error .unresolvedLabel
    | some off => if off ≤ 0xFFFF then .ok (.imm (BitVec.ofNat 16 off)) else .error .literalOutOfRange

/-- The errors of one instruction's operands in pass 2. DESIGN CHOICE, unsafe: one for each operand (log 28). -/
def resolveErrors (labels : List (Text × Nat)) (i : SymInstr) : List ParseError :=
  [i.op1, i.op2].filterMap fun o =>
    match resolveOperand labels o with
    | .ok _ => none
    | .error kind => some { line := i.line, kind := kind, raw := i.raw }

/-- Pass 2 (R89): offsets, and the records with their labels resolved. An error does not abort the pass. -/
def pass2 (enc : Instr → List Byte) (labels : List (Text × Nat)) : Nat → List Item → List Record × List ParseError
  | _, [] => ([], [])
  | off, .label _ :: rest => pass2 enc labels off rest
  | off, .instr i :: rest =>
    let r := pass2 enc labels (off + (i.image enc).length) rest
    match resolveOperand labels i.op1, resolveOperand labels i.op2 with
    | .ok a, .ok b => ({ mn := i.mn, op1 := a, op2 := b, bytes := i.image enc, addr := off } :: r.1, r.2)
    | _, _ => (r.1, resolveErrors labels i ++ r.2)

/-- The assembler over an encoder `ENC` (R5, R85 to R90). -/
def assembleWith (enc : Instr → List Byte) (source : Text) : ParseResult :=
  let p1 := pass1 1 [] (splitText '\n' source)
  let labels := labelOffsets enc 0 p1.1
  let p2 := pass2 enc labels 0 p1.1
  { records := p2.1, labels := labels, errors := p1.2 ++ p2.2 }

/-- The assembler with the default encoder (R95). -/
def assemble (source : Text) : ParseResult := assembleWith imageBytes source

/-- The host's load of assembly text: refused if any parse error exists (R90, 70_reset_and_hazards.md R253(1)). -/
def State.loadText (s : State) (source : Text) : Host.Outcome State Fault Refusal :=
  let r := assemble source
  if r.errors.isEmpty then s.loadProgram r.records else .refused (.parseErrors r.errors.length)

end Sys2Proof.Machine
end

