-- ==== Sys2Proof/Safety.lean ====
section
/-! DEFINITION. What statements are said in: the invariant of the machine, frames, the tables of what each instruction
writes, and how a run has ended. -/

namespace Sys2Proof.Machine

/-! The invariant -/

/-- What every trace record shows (40_step_cycle.md R130, R132, R137; 20_memory.md R61): the machine was not halted
before; the cycle count is the same before and after; the handler made 0 or 2 accesses; the bus list is the fetch pair,
a second pair for a record wider than one byte, and a pair an access; and the machine is halted after exactly when the
instruction is HLT or the description a fault's (R138). -/
structure TraceRecord.Consistent (t : TraceRecord) : Prop where
  notHaltedBefore : t.before.halted = false
  sameCycles : t.after.cycles = t.before.cycles
  accessCount : t.accesses.length = 0 ∨ t.accesses.length = 2
  busLength : t.bus.length = 2 + (if t.instruction.size > 1 then 2 else 0) + 2 * t.accesses.length
  crumbCount : t.crumbs.length = if t.instruction.size > 1 then 2 else 1
  haltedAfter : t.after.halted = true ↔ t.instruction.mn = .hlt ∨ ∃ kind text, t.description = .fault kind text

/-- The invariant of the machine, between steps: memory in canonical form (R50), the log within its capacity (R60), the
store rising, inside the 20-bit space and holding admitted records at their own addresses (R35, R253), an idle context,
one trace record a cycle (R32, R36), consistent trace records, and no ready machine whose last record halted (R120). -/
structure Invariant (s : State) : Prop where
  memory : Memory.wf s.mem = true
  log : s.accessLog.length ≤ 1000
  storeRising : Table.rising s.istore = true
  storeInRange : Table.inRange s.istore = true
  records : ∀ e ∈ s.istore, e.2.wf = true ∧ e.2.addr = e.1
  context : s.ctx = Context.idle
  traceCount : s.awaitingLoad = false → s.trace.length = s.cpu.cycles
  traceRecords : ∀ t ∈ s.trace, t.Consistent
  lastRecord : s.awaitingLoad = false → ∀ t, s.trace.getLast? = some t → t.after.halted = true → s.cpu.halted = true

/-! Frames -/

/-- What a handler leaves as it was: every register outside `regs`, every flag outside `flags`, the cycle count, the
instruction store, the program list, the trace, and the model's own fields it may not touch. -/
structure Frame (regs : List Reg) (flags : List Flag) (s t : State) : Prop where
  regs : ∀ r, r ∉ regs → t.reg r = s.reg r
  flags : ∀ f, f ∉ flags → t.flag f = s.flag f
  cycles : t.cpu.cycles = s.cpu.cycles
  istore : t.istore = s.istore
  program : t.program = s.program
  trace : t.trace = s.trace
  awaitingLoad : t.awaitingLoad = s.awaitingLoad
  size : t.ctx.size = s.ctx.size

/-- No memory byte changes and no access is logged (20_memory.md R72). -/
structure NoAccess (s t : State) : Prop where
  bytes : ∀ a, t.peekByte a = s.peekByte a
  log : t.accessLog = s.accessLog

/-- Every byte outside the word at `a` reads as before: the word is the bytes at `a` and `w20(a + 1)` (R58). -/
def KeptOutsideWord (a : PhysAddr) (s t : State) : Prop :=
  ∀ b, b ≠ a → b ≠ a + 1 → t.peekByte b = s.peekByte b

/-- The handler ended normally and did not halt the machine. -/
def Ran (s t : State) : Prop := t.cpu.halted = s.cpu.halted ∧ t.ctx.result = s.ctx.result

/-- IP went up by the record's length, wrapping at 16 bits (40_step_cycle.md R127). -/
def Advanced (s t : State) : Prop := (t.reg .ip).toNat = ((s.reg .ip).toNat + s.ctx.size) % 0x10000

/-- ZF and SF are those of a result (10_state.md R29). -/
def ZsOf (v : Word) (t : State) : Prop :=
  (t.flag .zf = true ↔ v.toNat = 0) ∧ (t.flag .sf = true ↔ 0x8000 ≤ v.toNat)

/-! What each instruction writes -/

/-- The flags an instruction writes (10_state.md R28). -/
def writtenFlags : Instr → List Flag
  | .movImm _ _ => []
  | .movReg _ _ => []
  | .push _ => []
  | .pop _ => []
  | .xchg _ _ => []
  | .addReg _ _ => [.zf, .sf, .cf]
  | .addImm _ _ => [.zf, .sf, .cf]
  | .subReg _ _ => [.zf, .sf, .cf]
  | .subImm _ _ => [.zf, .sf, .cf]
  | .andReg _ _ => [.zf, .sf, .cf]
  | .andImm _ _ => [.zf, .sf, .cf]
  | .orReg _ _ => [.zf, .sf, .cf]
  | .orImm _ _ => [.zf, .sf, .cf]
  | .xorReg _ _ => [.zf, .sf, .cf]
  | .xorImm _ _ => [.zf, .sf, .cf]
  | .cmpReg _ _ => [.zf, .sf, .cf]
  | .cmpImm _ _ => [.zf, .sf, .cf]
  | .inc _ => [.zf, .sf]
  | .dec _ => [.zf, .sf]
  | .mulReg _ => [.cf, .of]
  | .mulImm _ => [.cf, .of]
  | .divReg _ => []
  | .divImm _ => []
  | .neg _ => [.zf, .sf]
  | .not _ => []
  | .jmp _ => []
  | .je _ => []
  | .jz _ => []
  | .jne _ => []
  | .jnz _ => []
  | .jg _ => []
  | .jge _ => []
  | .jl _ => []
  | .jle _ => []
  | .call _ => []
  | .loop _ => []
  | .ret => []
  | .nop => []
  | .hlt => []
  | .unknown _ _ => []

/-- The registers an instruction may write, IP apart: its destination and its implicit destinations (R24). -/
def writtenRegs : Instr → List Reg
  | .movImm d _ => [d.toReg]
  | .movReg d _ => [d.toReg]
  | .push _ => [.sp]
  | .pop r => [r.toReg, .sp]
  | .xchg _ _ => []
  | .addReg d _ => [d.toReg]
  | .addImm d _ => [d.toReg]
  | .subReg d _ => [d.toReg]
  | .subImm d _ => [d.toReg]
  | .andReg d _ => [d.toReg]
  | .andImm d _ => [d.toReg]
  | .orReg d _ => [d.toReg]
  | .orImm d _ => [d.toReg]
  | .xorReg d _ => [d.toReg]
  | .xorImm d _ => [d.toReg]
  | .cmpReg _ _ => []
  | .cmpImm _ _ => []
  | .inc r => [r.toReg]
  | .dec r => [r.toReg]
  | .mulReg _ => [.ax, .dx]
  | .mulImm _ => [.ax, .dx]
  | .divReg _ => [.ax, .dx]
  | .divImm _ => [.ax, .dx]
  | .neg r => [r.toReg]
  | .not r => [r.toReg]
  | .jmp _ => []
  | .je _ => []
  | .jz _ => []
  | .jne _ => []
  | .jnz _ => []
  | .jg _ => []
  | .jge _ => []
  | .jl _ => []
  | .jle _ => []
  | .call _ => [.sp]
  | .loop _ => [.cx]
  | .ret => [.sp]
  | .nop => []
  | .hlt => []
  | .unknown _ _ => []

/-- The instructions that access memory: exactly PUSH, POP, CALL, RET (20_memory.md R72). -/
def accessesMemory : Instr → Bool
  | .push _ => true
  | .pop _ => true
  | .call _ => true
  | .ret => true
  | _ => false

/-- The instructions that write memory: PUSH and CALL (R72). -/
def storesMemory : Instr → Bool
  | .push _ => true
  | .call _ => true
  | _ => false

/-- A DIV whose divisor value is 0, the one faulting case (60_exceptions.md R232). -/
def divisorIsZero (s : State) : Instr → Prop
  | .divReg r => s.reg r.toReg = 0
  | .divImm n => n = 0
  | _ => False

/-- Whether a jump's condition holds (43_control_flow.md R200); JMP always, every other instruction never. -/
def jumpTaken (s : State) : Instr → Bool
  | .jmp _ => true
  | .je _ => condE s
  | .jz _ => condE s
  | .jne _ => condNe s
  | .jnz _ => condNe s
  | .jg _ => condG s
  | .jge _ => condGe s
  | .jl _ => condL s
  | .jle _ => condLe s
  | .loop _ => decide (s.reg .cx ≠ 1)
  | _ => false

/-! How a run has ended -/

/-- The causes of a halt (60_exceptions.md R235). -/
inductive HaltCause where
  | hlt | fetchMiss
  | fault (kind : RuntimeFault)
deriving DecidableEq, Repr

/-- The cause of a halt, read off the trace (40_step_cycle.md R138): none while the machine is ready. -/
def haltCause (s : State) : Option HaltCause :=
  if s.cpu.halted then
    match s.trace.getLast? with
    | none => some .fetchMiss
    | some r =>
      match r.description with
      | .fault kind _ => some (.fault kind)
      | _ => if r.instruction.mn = .hlt then some .hlt else some .fetchMiss
  else none

/-- A safe run: it came to its HLT, with no fault and no fetch miss (R138). -/
def endedNormally (s : State) : Bool := haltCause s == some .hlt

/-! Observations used to compare two runs -/

/-- Two states that differ at most in their traces. -/
def SameButTrace (s t : State) : Prop := ∃ tr, t = { s with trace := tr }

/-- The result of a step with the trace taken out. -/
def withoutTrace : Host.Outcome State Fault Refusal → Host.Outcome State Fault Refusal
  | .next t => .next { t with trace := [] }
  | .fault f => .fault f
  | .refused why => .refused why

end Sys2Proof.Machine
end

