-- ==== Sys2Proof/Certificates/Slice0/Obligations.lean ====
section
/-! DEFINITION. The statements for the provers, made from the numbered rules of spec/. The words they are said in
(frames, tables of what an instruction writes, the invariant) are in Safety.lean. In a statement about a handler,
`s.ctx.size` is `I.size` of the record being executed, which the fetch put there. -/

open Sys2Proof Sys2Proof.Machine

/-! ## Encoding -/

/-- R80, R82: decoding a record undoes encoding it, for every instruction and every operand value, and a record decodes to
an instruction only if it is that instruction's record. -/
def Obligations.RecordDecodeInvertsEncode : Prop :=
  (∀ i : Instr, decodeRecord (encodeRecord i).1 (encodeRecord i).2.1 (encodeRecord i).2.2 = .ok i) ∧
  (∀ mn op1 op2 i, decodeRecord mn op1 op2 = .ok i → encodeRecord i = (mn, op1, op2))

/-- R82: exactly the operand shapes of the table are admitted, and every other record is refused. -/
def Obligations.DecodeAdmitsExactlyTheListedShapes : Prop :=
  ∀ mn op1 op2,
    (shapeAdmitted mn op1 op2 = true → ∃ i, decodeRecord mn op1 op2 = .ok i) ∧
    (shapeAdmitted mn op1 op2 = false → ∃ why, decodeRecord mn op1 op2 = .error why)

/-- R95, R96: what is read from an image has that image under the default encoder (log 4): no byte of it is dropped or
misread. -/
def Obligations.ImageDecodeIsSound : Prop :=
  ∀ (bytes : List Byte) (i : Instr) (rest : List Byte),
    decodeImage bytes = .ok (i, rest) → imageBytes i ++ rest = bytes

/-- R95, R96: every image of the default encoder (log 4) is read, to its end and no further, as an instruction with the same
image, which need not be the one encoded (log 9). -/
def Obligations.EveryImageIsRead : Prop :=
  ∀ (i : Instr) (rest : List Byte),
    ∃ j, decodeImage (imageBytes i ++ rest) = .ok (j, rest) ∧ imageBytes j = imageBytes i

/-- R94, R96, R98: an image of the default encoder (log 4) is 1, 2 or 3 bytes long, and its first byte tells how long. -/
def Obligations.FirstByteTellsTheLength : Prop :=
  ∀ i : Instr, ∃ b rest, imageBytes i = b :: rest ∧ imageLength b = some (imageBytes i).length ∧
    1 ≤ (imageBytes i).length ∧ (imageBytes i).length ≤ 3

/-- R82, R95, R99: images and records written out from the spec's tables are read as instructions they encode. An image
does not carry every operand (R92, R96): `43`, `5B`, `B9` and `BB` are also images of INC DS, POP DS, MOV CS,imm and
MOV DS,imm, so reading them as BX and CX is the model's choice of one instruction (log 9), with the default encoder's bytes
(log 4). A record carries its operands; that IP is no operand is decisions D2 and D21 (log 14). -/
def Obligations.WorkedEncodingsDecode : Prop :=
  decodeTableWord 24 0b101110010000010100000000 = some (.movImm .cx 5) ∧
  decodeTableWord 24 0b101110110000000100000000 = some (.movImm .bx 1) ∧
  decodeTableWord 8 0b01000011 = some (.inc .bx) ∧
  decodeTableWord 8 0b11110100 = some .hlt ∧
  decodeTableWord 8 0b01011011 = some (.pop .bx) ∧
  decodeRecord .loop (.imm 9) .none = .ok (.loop 9) ∧
  decodeRecord .add (.reg .ax) (.reg .bx) = .ok (.addReg .ax .bx) ∧
  decodeRecord .add (.reg .ip) (.reg .bx) = .error (.ipOperand .add)

/-! ## Registers, addresses and memory -/

/-- R22, R37: a register holds the last value written to it, masked to 16 bits, and a write leaves every other register
as it was. -/
def Obligations.RegisterWriteThenRead : Prop :=
  ∀ (s : State) (r q : Reg) (v : Int),
    ((s.setReg r (w16 v)).reg r).toNat = (v % 0x10000).toNat ∧
    (q ≠ r → (s.setReg r (w16 v)).reg q = s.reg q)

/-- R52: the physical address is `(seg*16 + off) mod 2^20`, and wraps at the top. -/
def Obligations.PhysicalAddressFormula : Prop :=
  (∀ seg off : Word, (phys seg off).toNat = (seg.toNat * 16 + off.toNat) % 0x100000) ∧
  phys 0xFFFF 0xFFFF = 0x0FFEF#20 ∧ phys 0x1234 0x0010 = 0x12350#20 ∧ phys 0xFFFF 0x0010 = 0x00000#20

/-- R55 to R58, R62, R63: a word write puts the low byte at `a` and the high byte at `w20(a + 1)`, leaves every other byte,
and logs two byte accesses, low byte first; a word read gives the two bytes and logs two reads. -/
def Obligations.WordAccessIsTwoBytesLittleEndian : Prop :=
  ∀ (s : State) (a : PhysAddr) (v : Word),
    (s.writeWord a v).peekWord a = v ∧
    ((s.writeWord a v).peekByte a).toNat = v.toNat % 256 ∧
    ((s.writeWord a v).peekByte (a + 1)).toNat = v.toNat / 256 ∧
    KeptOutsideWord a s (s.writeWord a v) ∧
    (s.accessLog.length ≤ 998 →
      (s.writeWord a v).accessLog = s.accessLog ++
        [{ kind := .write, address := a, value := lowByte v, size := 1 },
         { kind := .write, address := a + 1, value := highByte v, size := 1 }] ∧
      (s.readWord a).accessLog = s.accessLog ++
        [{ kind := .read, address := a, value := s.peekByte a, size := 1 },
         { kind := .read, address := a + 1, value := s.peekByte (a + 1), size := 1 }]) ∧
    (s.peekWord a).toNat = (s.peekByte (a + 1)).toNat * 256 + (s.peekByte a).toNat ∧
    (∀ b, (s.readWord a).peekByte b = s.peekByte b)

/-- R50, R67: memory keeps its canonical form under every write, a read gives the latest write to its byte, and memories in
canonical form with the same bytes are the same data. -/
def Obligations.MemoryIsCanonical : Prop :=
  (∀ m a v, Memory.wf m = true → Memory.wf (Memory.write m a v) = true) ∧
  (∀ m a b v, Memory.read (Memory.write m a v) b = if b = a then v else Memory.read m b) ∧
  (∀ m n, Memory.wf m = true → Memory.wf n = true → (∀ a, Memory.read m a = Memory.read n a) → m = n)

/-- R60: the log is a FIFO of at most 1000 entries: a push appends, and drops the oldest entry of a full log. -/
def Obligations.AccessLogIsBoundedFifo : Prop :=
  ∀ (log : List Access) (e : Access),
    (log.length < 1000 → pushAccess log e = log ++ [e]) ∧
    (log.length = 1000 → pushAccess log e = log.tail ++ [e]) ∧
    (log.length ≤ 1000 → (pushAccess log e).length ≤ 1000)

/-! ## Data transfer -/

/-- What MOV leaves (R211). -/
def MovLeaves (d : OpReg) (v : Word) (s t : State) : Prop :=
  t.reg d.toReg = v ∧ Advanced s t ∧ Frame [d.toReg, .ip] [] s t ∧ NoAccess s t ∧ Ran s t

/-- R211: MOV copies its source, register or immediate, into the destination register and writes no flag. -/
def Obligations.MovCopiesItsSource : Prop :=
  ∀ (d r : OpReg) (n : Word) (s : State),
    (∃ t, exec (.movReg d r) s = .next t ∧ MovLeaves d (s.reg r.toReg) s t) ∧
    (∃ t, exec (.movImm d n) s = .next t ∧ MovLeaves d n s t)

/-- R212, R213: PUSH lowers SP by 2, stores the register's value from before, as a word at SS:(SP - 2), and writes nothing
else: the value at the two bytes of the slot, every other byte as before. -/
def Obligations.PushStoresBelowTheStackTop : Prop :=
  ∀ (r : OpReg) (s : State), ∃ t, exec (.push r) s = .next t ∧
    (t.reg .sp).toNat = ((s.reg .sp).toNat + 0xFFFE) % 0x10000 ∧
    t.peekWord s.pushSlot = s.reg r.toReg ∧ KeptOutsideWord s.pushSlot s t ∧
    t.stackTop = s.pushSlot ∧
    Advanced s t ∧ Frame [.sp, .ip] [] s t ∧ Ran s t

/-- R214, R216: POP puts the word at SS:SP into its register and raises SP by 2; POP SP ends with the word itself in SP; no
byte of memory changes. -/
def Obligations.PopTakesTheStackTop : Prop :=
  ∀ (r : OpReg) (s : State), ∃ t, exec (.pop r) s = .next t ∧
    t.reg r.toReg = s.peekWord s.stackTop ∧
    (r ≠ .sp → (t.reg .sp).toNat = ((s.reg .sp).toNat + 2) % 0x10000) ∧
    (∀ a, t.peekByte a = s.peekByte a) ∧
    Advanced s t ∧ Frame [r.toReg, .sp, .ip] [] s t ∧ Ran s t

/-- R129, R215: XCHG and an unknown mnemonic advance IP, report "unknown instruction" and change nothing else; the two
registers of XCHG are not exchanged. -/
def Obligations.XchgAndUnknownOnlyAdvance : Prop :=
  ∀ (a b : OpReg) (x y : Operand) (s : State),
    (∃ t, exec (.xchg a b) s = .next t ∧ Advanced s t ∧ Frame [.ip] [] s t ∧ NoAccess s t ∧
      t.cpu.halted = s.cpu.halted ∧ t.ctx.result = .unknownInstruction) ∧
    (∃ t, exec (.unknown x y) s = .next t ∧ Advanced s t ∧ Frame [.ip] [] s t ∧ NoAccess s t ∧
      t.cpu.halted = s.cpu.halted ∧ t.ctx.result = .unknownInstruction)

/-! ## Arithmetic -/

/-- What ADD leaves (R151). -/
def AddLeaves (d : OpReg) (b : Word) (s t : State) : Prop :=
  (t.reg d.toReg).toNat = ((s.reg d.toReg).toNat + b.toNat) % 0x10000 ∧
  (t.flag .cf = true ↔ 0xFFFF < (s.reg d.toReg).toNat + b.toNat) ∧
  ZsOf (t.reg d.toReg) t ∧
  Advanced s t ∧ Frame [d.toReg, .ip] [.cf, .zf, .sf] s t ∧ NoAccess s t ∧ Ran s t

/-- R151: ADD writes the sum modulo 2^16, CF the carry of the raw sum, ZF and SF of the result, and not OF. -/
def Obligations.AddWritesSumAndCarry : Prop :=
  ∀ (d r : OpReg) (n : Word) (s : State),
    (∃ t, exec (.addReg d r) s = .next t ∧ AddLeaves d (s.reg r.toReg) s t) ∧
    (∃ t, exec (.addImm d n) s = .next t ∧ AddLeaves d n s t)

/-- What SUB leaves (R152). -/
def SubLeaves (d : OpReg) (b : Word) (s t : State) : Prop :=
  ((t.reg d.toReg).toNat : Int) = ((s.reg d.toReg).toNat - b.toNat : Int) % 0x10000 ∧
  (t.flag .cf = true ↔ (s.reg d.toReg).toNat < b.toNat) ∧
  ZsOf (t.reg d.toReg) t ∧
  Advanced s t ∧ Frame [d.toReg, .ip] [.cf, .zf, .sf] s t ∧ NoAccess s t ∧ Ran s t

/-- R152: SUB writes the difference modulo 2^16, CF exactly when the first operand is below the second, ZF and SF of the
result, and not OF. -/
def Obligations.SubWritesDifferenceAndBorrow : Prop :=
  ∀ (d r : OpReg) (n : Word) (s : State),
    (∃ t, exec (.subReg d r) s = .next t ∧ SubLeaves d (s.reg r.toReg) s t) ∧
    (∃ t, exec (.subImm d n) s = .next t ∧ SubLeaves d n s t)

/-- What INC, DEC and NEG leave but the result itself (R153 to R155): CF and OF are not written. -/
def UnaryLeaves (r : OpReg) (s t : State) : Prop :=
  ZsOf (t.reg r.toReg) t ∧ Advanced s t ∧ Frame [r.toReg, .ip] [.zf, .sf] s t ∧ NoAccess s t ∧ Ran s t

/-- R153 to R155: INC, DEC and NEG write the register plus 1, minus 1 and negated, modulo 2^16, and ZF and SF from it. -/
def Obligations.IncDecNegWriteZeroAndSignOnly : Prop :=
  ∀ (r : OpReg) (s : State),
    (∃ t, exec (.inc r) s = .next t ∧
      (t.reg r.toReg).toNat = ((s.reg r.toReg).toNat + 1) % 0x10000 ∧ UnaryLeaves r s t) ∧
    (∃ t, exec (.dec r) s = .next t ∧
      (t.reg r.toReg).toNat = ((s.reg r.toReg).toNat + 0xFFFF) % 0x10000 ∧ UnaryLeaves r s t) ∧
    (∃ t, exec (.neg r) s = .next t ∧
      (t.reg r.toReg).toNat = (0x10000 - (s.reg r.toReg).toNat) % 0x10000 ∧ UnaryLeaves r s t)

/-- What MUL leaves (R156). -/
def MulLeaves (m : Word) (s t : State) : Prop :=
  (t.reg .dx).toNat * 0x10000 + (t.reg .ax).toNat = (s.reg .ax).toNat * m.toNat ∧
  (t.flag .cf = true ↔ (t.reg .dx).toNat ≠ 0) ∧ (t.flag .of = true ↔ (t.reg .dx).toNat ≠ 0) ∧
  Advanced s t ∧ Frame [.ax, .dx, .ip] [.cf, .of] s t ∧ NoAccess s t ∧ Ran s t

/-- R156: MUL leaves the exact unsigned product of AX and its operand in DX:AX, CF and OF both true exactly when the high
half is non-zero, and ZF and SF as they were. -/
def Obligations.MulLeavesTheExactProduct : Prop :=
  ∀ (r : OpReg) (n : Word) (s : State),
    (∃ t, exec (.mulReg r) s = .next t ∧ MulLeaves (s.reg r.toReg) s t) ∧
    (∃ t, exec (.mulImm n) s = .next t ∧ MulLeaves n s t)

/-- The dividend of DIV, DX:AX as an unsigned 32-bit number (R157). -/
def dividend (s : State) : Nat := (s.reg .dx).toNat * 0x10000 + (s.reg .ax).toNat

/-- What DIV leaves when its divisor is not 0 (R157). -/
def DivLeaves (d : Word) (s t : State) : Prop :=
  (t.reg .ax).toNat = (dividend s / d.toNat) % 0x10000 ∧ (t.reg .dx).toNat = dividend s % d.toNat ∧
  Advanced s t ∧ Frame [.ax, .dx, .ip] [] s t ∧ NoAccess s t ∧ Ran s t

/-- R157: DIV by a non-zero operand leaves the quotient's low 16 bits in AX and the remainder in DX, and no flag. Where the
results go and the truncation are the spec's decision D18 (log 19). -/
def Obligations.DivLeavesQuotientAndRemainder : Prop :=
  ∀ (r : OpReg) (n : Word) (s : State),
    (s.reg r.toReg ≠ 0 → ∃ t, exec (.divReg r) s = .next t ∧ DivLeaves (s.reg r.toReg) s t) ∧
    (n ≠ 0 → ∃ t, exec (.divImm n) s = .next t ∧ DivLeaves n s t)

/-- What a division by zero leaves (R231, R232): the machine halted, the fault in the description, and nothing else
changed: no register, IP among them, no flag, no byte. -/
def DivFaultLeaves (s t : State) : Prop :=
  t.cpu.halted = true ∧ t.ctx.result = .raised .divZero "division by zero" ∧ Frame [] [] s t ∧ NoAccess s t

/-- R157, R231, R232: DIV by 0 takes the DIV_ZERO fault. -/
def Obligations.DivByZeroHalts : Prop :=
  ∀ (r : OpReg) (s : State),
    (s.reg r.toReg = 0 → ∃ t, exec (.divReg r) s = .next t ∧ DivFaultLeaves s t) ∧
    (∃ t, exec (.divImm 0) s = .next t ∧ DivFaultLeaves s t)

/-! ## Logic -/

/-- What AND, OR, XOR leave but the result itself (R171 to R173): CF false, OF not written. -/
def LogicLeaves (d : OpReg) (s t : State) : Prop :=
  t.flag .cf = false ∧ ZsOf (t.reg d.toReg) t ∧
  Advanced s t ∧ Frame [d.toReg, .ip] [.cf, .zf, .sf] s t ∧ NoAccess s t ∧ Ran s t

/-- Bit `k` of the result is `f` of the operands' bits `k`, for every `k` (R170). -/
def BitwiseResult (f : Bool → Bool → Bool) (d : OpReg) (b : Word) (s t : State) : Prop :=
  ∀ k, k < 16 → (t.reg d.toReg).getLsbD k = f ((s.reg d.toReg).getLsbD k) (b.getLsbD k)

/-- R170 to R173: AND, OR and XOR act on each of the 16 bits alone, force CF false and derive ZF and SF. -/
def Obligations.LogicIsBitwiseAndClearsCarry : Prop :=
  ∀ (d r : OpReg) (n : Word) (s : State),
    (∃ t, exec (.andReg d r) s = .next t ∧ BitwiseResult (· && ·) d (s.reg r.toReg) s t ∧ LogicLeaves d s t) ∧
    (∃ t, exec (.andImm d n) s = .next t ∧ BitwiseResult (· && ·) d n s t ∧ LogicLeaves d s t) ∧
    (∃ t, exec (.orReg d r) s = .next t ∧ BitwiseResult (· || ·) d (s.reg r.toReg) s t ∧ LogicLeaves d s t) ∧
    (∃ t, exec (.orImm d n) s = .next t ∧ BitwiseResult (· || ·) d n s t ∧ LogicLeaves d s t) ∧
    (∃ t, exec (.xorReg d r) s = .next t ∧ BitwiseResult xor d (s.reg r.toReg) s t ∧ LogicLeaves d s t) ∧
    (∃ t, exec (.xorImm d n) s = .next t ∧ BitwiseResult xor d n s t ∧ LogicLeaves d s t)

/-- R174: NOT complements every bit of its register and writes no flag. -/
def Obligations.NotComplementsAndKeepsFlags : Prop :=
  ∀ (r : OpReg) (s : State), ∃ t, exec (.not r) s = .next t ∧
    (t.reg r.toReg).toNat = 0xFFFF - (s.reg r.toReg).toNat ∧
    (∀ k, k < 16 → (t.reg r.toReg).getLsbD k = !(s.reg r.toReg).getLsbD k) ∧
    Advanced s t ∧ Frame [r.toReg, .ip] [] s t ∧ NoAccess s t ∧ Ran s t

/-- What CMP leaves (R175). -/
def CmpLeaves (a : OpReg) (b : Word) (s t : State) : Prop :=
  (t.flag .cf = true ↔ (s.reg a.toReg).toNat < b.toNat) ∧
  (t.flag .zf = true ↔ s.reg a.toReg = b) ∧
  (t.flag .sf = true ↔ 0x8000 ≤ ((s.reg a.toReg).toNat - b.toNat : Int) % 0x10000) ∧
  Advanced s t ∧ Frame [.ip] [.cf, .zf, .sf] s t ∧ NoAccess s t ∧ Ran s t

/-- R175: CMP writes no register, and CF, ZF, SF exactly as SUB of the same operands does. -/
def Obligations.CmpSetsTheFlagsOfSub : Prop :=
  ∀ (a b : OpReg) (n : Word) (s : State),
    (∃ t, exec (.cmpReg a b) s = .next t ∧ CmpLeaves a (s.reg b.toReg) s t ∧
      ∃ u, exec (.subReg a b) s = .next u ∧ ∀ f, t.flag f = u.flag f) ∧
    (∃ t, exec (.cmpImm a n) s = .next t ∧ CmpLeaves a n s t ∧
      ∃ u, exec (.subImm a n) s = .next u ∧ ∀ f, t.flag f = u.flag f)

/-! ## Control flow -/

/-- What a jump leaves (R185): IP at the target when taken, else advanced; nothing else. -/
def JumpLeaves (taken : Prop) (t : Word) (s u : State) : Prop :=
  (taken → u.reg .ip = t) ∧ (¬ taken → Advanced s u) ∧ Frame [.ip] [] s u ∧ NoAccess s u ∧ Ran s u

/-- R186: JMP sets IP to its target, and changes nothing else. -/
def Obligations.JmpGoesToItsTarget : Prop :=
  ∀ (t : Word) (s : State), ∃ u, exec (.jmp t) s = .next u ∧ JumpLeaves True t s u

/-- R187 to R194, R200: each conditional jump is taken exactly on the condition of the table, on the flags as they are. -/
def Obligations.ConditionalJumpsFollowTheTable : Prop :=
  ∀ (t : Word) (s : State),
    let z := s.flag .zf = true
    let sgn := s.flag .sf
    let o := s.flag .of
    (∃ u, exec (.je t) s = .next u ∧ JumpLeaves z t s u) ∧
    (∃ u, exec (.jz t) s = .next u ∧ JumpLeaves z t s u) ∧
    (∃ u, exec (.jne t) s = .next u ∧ JumpLeaves (¬ z) t s u) ∧
    (∃ u, exec (.jnz t) s = .next u ∧ JumpLeaves (¬ z) t s u) ∧
    (∃ u, exec (.jg t) s = .next u ∧ JumpLeaves (¬ z ∧ sgn = o) t s u) ∧
    (∃ u, exec (.jge t) s = .next u ∧ JumpLeaves (sgn = o) t s u) ∧
    (∃ u, exec (.jl t) s = .next u ∧ JumpLeaves (sgn ≠ o) t s u) ∧
    (∃ u, exec (.jle t) s = .next u ∧ JumpLeaves (z ∨ sgn ≠ o) t s u)

/-- R195, R213: CALL pushes the offset of the instruction after it, as a word at SS:(SP - 2), and goes to its target. -/
def Obligations.CallPushesTheReturnOffset : Prop :=
  ∀ (t : Word) (s : State), ∃ u, exec (.call t) s = .next u ∧
    u.reg .ip = t ∧
    (u.reg .sp).toNat = ((s.reg .sp).toNat + 0xFFFE) % 0x10000 ∧
    (u.peekWord s.pushSlot).toNat = ((s.reg .ip).toNat + s.ctx.size) % 0x10000 ∧
    KeptOutsideWord s.pushSlot s u ∧ u.stackTop = s.pushSlot ∧
    Frame [.sp, .ip] [] s u ∧ Ran s u

/-- R196, R214: RET takes the word at SS:SP into IP and raises SP by 2; no byte of memory changes. -/
def Obligations.RetPopsIntoIp : Prop :=
  ∀ s : State, ∃ u, exec .ret s = .next u ∧
    u.reg .ip = s.peekWord s.stackTop ∧
    (u.reg .sp).toNat = ((s.reg .sp).toNat + 2) % 0x10000 ∧
    (∀ a, u.peekByte a = s.peekByte a) ∧ Frame [.sp, .ip] [] s u ∧ Ran s u

/-- R197: LOOP lowers CX by 1, wrapping from 0 to 0xFFFF, and is taken unless CX has become 0; no flag is written. -/
def Obligations.LoopCountsDownAndBranches : Prop :=
  ∀ (t : Word) (s : State), ∃ u, exec (.loop t) s = .next u ∧
    (u.reg .cx).toNat = ((s.reg .cx).toNat + 0xFFFF) % 0x10000 ∧
    ((u.reg .cx).toNat ≠ 0 → u.reg .ip = t) ∧ ((u.reg .cx).toNat = 0 → Advanced s u) ∧
    ((u.reg .cx).toNat = 0 ↔ (s.reg .cx).toNat = 1) ∧
    Frame [.cx, .ip] [] s u ∧ NoAccess s u ∧ Ran s u

/-- R198: NOP advances IP and changes nothing else. -/
def Obligations.NopOnlyAdvances : Prop :=
  ∀ s : State, ∃ u, exec .nop s = .next u ∧ Advanced s u ∧ Frame [.ip] [] s u ∧ NoAccess s u ∧ Ran s u

/-- R199: HLT halts the machine and writes nothing else: no register, flag or byte. That IP stays at the HLT is the default
of the parameter HLT_ADVANCES_IP, which the model takes (log 3). -/
def Obligations.HltHalts : Prop :=
  ∀ s : State, ∃ u, exec .hlt s = .next u ∧ u.cpu.halted = true ∧ u.ctx.result = s.ctx.result ∧
    u.reg .ip = s.reg .ip ∧ Frame [] [] s u ∧ NoAccess s u

/-! ## Rules over all instructions -/

/-- R24, R28, R35: an instruction changes no flag outside its row of the flag table, no register but its destinations and
IP, and neither the store, the program list, the trace nor the cycle count. -/
def Obligations.OnlyTheTablesAreWritten : Prop :=
  ∀ (i : Instr) (s t : State), exec i s = .next t → Frame (.ip :: writtenRegs i) (writtenFlags i) s t

/-- R30: OF is written by MUL only, which gives it the value of CF, and it is false at reset. -/
def Obligations.OnlyMulWritesOverflow : Prop :=
  (∀ (i : Instr) (s t : State), exec i s = .next t → (∀ r, i ≠ .mulReg r) → (∀ n, i ≠ .mulImm n) →
    t.flag .of = s.flag .of) ∧
  (∀ (r : OpReg) (n : Word) (s t : State), (exec (.mulReg r) s = .next t ∨ exec (.mulImm n) s = .next t) →
    t.flag .of = t.flag .cf) ∧
  State.reset.flag .of = false

/-- R28: CF is read by no instruction: with CF set to any value before, every register, every other flag, memory, the log,
the halt and the handler's result come out the same. -/
def Obligations.CarryIsReadByNoInstruction : Prop :=
  ∀ (i : Instr) (b : Bool) (s t u : State), exec i s = .next t → exec i (s.setFlag .cf b) = .next u →
    (∀ r, u.reg r = t.reg r) ∧ (∀ f, f ≠ .cf → u.flag f = t.flag f) ∧ u.mem = t.mem ∧ u.accessLog = t.accessLog ∧
    u.cpu.halted = t.cpu.halted ∧ u.ctx = t.ctx ∧ (Flag.cf ∈ writtenFlags i → u.flag .cf = t.flag .cf)

/-- R61, R72: only PUSH, POP, CALL and RET access memory, each by exactly two byte accesses of one word; only PUSH and CALL
change a byte. -/
def Obligations.OnlyStackInstructionsAccessMemory : Prop :=
  ∀ (i : Instr) (s t : State), exec i s = .next t →
    (accessesMemory i = false → NoAccess s t) ∧
    (accessesMemory i = true → s.accessLog = [] →
      ∃ e f, t.accessLog = [e, f] ∧ f.address = e.address + 1 ∧ e.size = 1 ∧ f.size = 1 ∧
        e.kind = (if storesMemory i then .write else .read) ∧ f.kind = e.kind ∧
        e.address = (if storesMemory i then s.pushSlot else s.stackTop)) ∧
    (storesMemory i = false → ∀ a, t.peekByte a = s.peekByte a)

/-- R131, the default DIRTY_POLICY (log 6, the spec's own policy): a handler that starts with no marks ends with exactly the
registers and flags its pseudocode assigns, IP among them only when a transfer assigned it; a faulting DIV marks none. -/
def Obligations.MarksFollowTheDefaultPolicy : Prop :=
  ∀ (i : Instr) (s t : State), exec i s = .next t → s.ctx.changedRegs = [] → s.ctx.changedFlags = [] →
    (∀ f, f ∈ t.ctx.changedFlags ↔ f ∈ writtenFlags i) ∧
    (divisorIsZero s i → t.ctx.changedRegs = []) ∧
    (¬ divisorIsZero s i → ∀ r, r ∈ t.ctx.changedRegs ↔
      r ∈ writtenRegs i ∨ (r = .ip ∧ (jumpTaken s i = true ∨ (∃ x, i = .call x) ∨ i = .ret)))

/-- The stack discipline, R217(1) and (3) (PUSH SP and POP SP are decision D14): PUSH then POP of the same register, SP among them, restores the
register and SP; CALL then RET comes back to the instruction after the CALL with SP as before. -/
def Obligations.StackRoundTrips : Prop :=
  (∀ (r : OpReg) (s t u : State), exec (.push r) s = .next t → exec (.pop r) t = .next u →
    u.reg r.toReg = s.reg r.toReg ∧ u.reg .sp = s.reg .sp) ∧
  (∀ (x : Word) (s t u : State), exec (.call x) s = .next t → exec .ret t = .next u →
    (u.reg .ip).toNat = ((s.reg .ip).toNat + s.ctx.size) % 0x10000 ∧ u.reg .sp = s.reg .sp)

/-! ## The step -/

/-- R121, R125: when the fetch finds a record the machine admits, the step runs exactly that instruction's handler, from the
state with the log cleared and the record's context made, and ends it by one more cycle, the trace record and an idle
context. -/
def Obligations.StepRunsTheDecodedInstruction : Prop :=
  ∀ (s : State) (r : Record) (i : Instr),
    s.cpu.halted = false → s.awaitingLoad = false → s.fetch = some r → r.decode = .ok i →
    (∀ t, exec i (s.beginStep r) = .next t → step s = .next (t.endStep s r)) ∧
    (s.beginStep r).ctx.size = r.size ∧ (s.beginStep r).accessLog = [] ∧ (s.beginStep r).cpu = s.cpu ∧
    (s.beginStep r).mem = s.mem ∧
    (∀ t : State, (t.endStep s r).mem = t.mem ∧ (t.endStep s r).cpu.regs = t.cpu.regs ∧
      (t.endStep s r).cpu.flags = t.cpu.flags ∧ (t.endStep s r).cpu.halted = t.cpu.halted ∧
      (t.endStep s r).cpu.cycles = t.cpu.cycles + 1 ∧ (t.endStep s r).trace = t.trace ++ [traceRecord s r t])

/-- R31, R120, R246: `step` on a halted machine changes nothing at all, so neither does `run`; no instruction makes a halted
machine ready, and of the host's calls only `reset` and `loadProgram` do. -/
def Obligations.HaltedMachineStaysAsItIs : Prop :=
  (∀ (s : State) (n : Nat), s.cpu.halted = true → step s = .next s ∧ run n s = .next s) ∧
  (∀ (i : Instr) (s t : State), s.cpu.halted = true → exec i s = .next t → t.cpu.halted = true) ∧
  (∀ (c : HostCall) (s t : State), s.cpu.halted = true → hostCall c s = .next t → c ≠ .reset →
    (∀ p, c ≠ .loadProgram p) → t.cpu.halted = true) ∧
  (∀ s : State, s.hostReset.cpu.halted = false)

/-- R120, R230, R235: a step halts a ready machine only by a fetch miss, by HLT or by a DIV whose divisor is 0, and by each
of these three it does. -/
def Obligations.HaltHasExactlyItsCauses : Prop :=
  ∀ s t : State, s.cpu.halted = false → step s = .next t →
    (t.cpu.halted = true ↔
      s.fetch = none ∨ ∃ r i, s.fetch = some r ∧ r.decode = .ok i ∧ (i = .hlt ∨ divisorIsZero s i))

/-- R233: a fetch that finds no record sets `halted` and changes nothing else: no register, flag, byte, log entry, cycle or
trace record. -/
def Obligations.FetchMissOnlyHalts : Prop :=
  ∀ s : State, s.cpu.halted = false → s.awaitingLoad = false → s.fetch = none →
    ∃ t, step s = .next t ∧ t.cpu.halted = true ∧ t.cpu.regs = s.cpu.regs ∧ t.cpu.flags = s.cpu.flags ∧
      t.cpu.cycles = s.cpu.cycles ∧ t.mem = s.mem ∧ t.accessLog = s.accessLog ∧ t.istore = s.istore ∧
      t.program = s.program ∧ t.trace = s.trace ∧ stepReturn s = none

/-- R121, R132, R137: a step that fetches a record appends exactly one trace record and returns it; its snapshots are the
CPU state before and the one after with the OLD cycle count, while the live count has gone up by one. -/
def Obligations.StepAppendsOneTraceRecord : Prop :=
  ∀ (s t : State) (r : Record), s.cpu.halted = false → s.fetch = some r → step s = .next t →
    ∃ rec, t.trace = s.trace ++ [rec] ∧ stepReturn s = some rec ∧ rec.instruction = r ∧ rec.before = s.cpu ∧
      rec.after.cycles = rec.before.cycles ∧ t.cpu.cycles = s.cpu.cycles + 1 ∧
      rec.after.regs = t.cpu.regs ∧ rec.after.flags = t.cpu.flags ∧ rec.after.halted = t.cpu.halted ∧
      rec.accesses = t.accessLog

/-- R123, R124, R130: the bus list of a step: the opcode-fetch pair; the operand-fetch pair if the record is wider than one
byte; then an ADDRESS and a DATA event for each access, in log order: none, or four events for PUSH, POP, CALL and RET. -/
def Obligations.BusListOfAStep : Prop :=
  ∀ (s t : State) (r : Record) (i : Instr), s.cpu.halted = false → s.fetch = some r → r.decode = .ok i →
    step s = .next t →
    ∃ rec, t.trace = s.trace ++ [rec] ∧
      rec.bus =
        [{ phase := .address, kind := .fetch, address := s.fetchAddress, data := .none },
         { phase := .data, kind := .fetch, address := s.fetchAddress, data := .byte (r.bytes.getD 0 0) }] ++
        (if r.size > 1 then
          [{ phase := .address, kind := .fetch, address := s.fetchAddress + 1, data := .none },
           { phase := .data, kind := .fetch, address := s.fetchAddress + 1,
             data := .word (wordOf (r.bytes.getD 2 0) (r.bytes.getD 1 0)) }]
         else []) ++
        (rec.accesses.map fun e =>
          [{ phase := .address, kind := e.kind.toBusKind, address := e.address, data := .none },
           { phase := .data, kind := e.kind.toBusKind, address := e.address, data := .byte e.value }]).flatten ∧
      rec.accesses.length = (if accessesMemory i then 2 else 0) ∧
      rec.crumbs =
        ({ segName := .cs, segValue := s.reg .cs, offName := .ip, offValue := s.reg .ip,
           physical := phys (s.reg .cs) (s.reg .ip) } : Crumb) ::
        (if r.size > 1 then
          [{ segName := .cs, segValue := s.reg .cs, offName := .ipPlus1, offValue := s.reg .ip + 1,
             physical := phys (s.reg .cs) (s.reg .ip) + 1 }]
         else [])

/-- R129, R132, R232: the description of a step's record: the fault's message after a DIV by 0, the diagnostic after XCHG or
an unknown mnemonic, and the handler's own opaque text after every other instruction. -/
def Obligations.DescriptionTellsTheOutcome : Prop :=
  ∀ (s t : State) (r : Record) (i : Instr), s.cpu.halted = false → s.fetch = some r → r.decode = .ok i →
    step s = .next t →
    ∃ rec, t.trace = s.trace ++ [rec] ∧
      (divisorIsZero s i → rec.description = .fault .divZero "division by zero") ∧
      ((∃ a b, i = .xchg a b) ∨ (∃ x y, i = .unknown x y) →
        rec.description = .unknownInstruction "unknown instruction") ∧
      (¬ divisorIsZero s i → (∀ a b, i ≠ .xchg a b) → (∀ x y, i ≠ .unknown x y) →
        rec.description = .effect (Config.effectText r s.cpu rec.after))

/-- R138, R235: the cause of a halt is read off the trace: a fetch miss, HLT or the division by zero, as it was. -/
def Obligations.HaltCauseIsReadOffTheTrace : Prop :=
  ∀ s t : State, Invariant s → s.cpu.halted = false → step s = .next t → t.cpu.halted = true →
    (s.fetch = none → haltCause t = some .fetchMiss) ∧
    (∀ r, s.fetch = some r → r.decode = .ok .hlt → haltCause t = some .hlt) ∧
    (∀ r i, s.fetch = some r → r.decode = .ok i → divisorIsZero s i → haltCause t = some (.fault .divZero))

/-- R66, R70: stores never reach fetch: no step changes the store, and what the next step fetches does not depend on the
bytes of memory. -/
def Obligations.StoresNeverReachFetch : Prop :=
  (∀ s t : State, step s = .next t → t.istore = s.istore ∧ t.program = s.program) ∧
  (∀ (s : State) (m : List Host.Cell), ({ s with mem := m } : State).fetch = s.fetch)

/-- R36, R245: the trace is read by nothing: two states that differ only in their traces step alike, and what the step does
to the rest of the state is the same. -/
def Obligations.TraceNeverInfluencesAStep : Prop :=
  ∀ s t : State, SameButTrace s t → withoutTrace (step s) = withoutTrace (step t) ∧ stepReturn s = stepReturn t

/-! ## Reset, load, run and the invariant -/

/-- R38, R251: the state after reset: SP is 0xFFFE and every other register 0; every memory byte 0x00 and the log empty; the
machine ready. The flags false and `cycles` 0 are decision D4 (log 7); the store, the program list and the trace empty are
those of power-on, which decision D40 makes the reset state (log 1). -/
def Obligations.ResetValues : Prop :=
  (∀ r, r ≠ .sp → State.reset.reg r = 0) ∧ State.reset.reg .sp = 0xFFFE ∧ (∀ f, State.reset.flag f = false) ∧
  State.reset.cpu.halted = false ∧ State.reset.cpu.cycles = 0 ∧ (∀ a, State.reset.peekByte a = 0) ∧
  State.reset.accessLog = [] ∧ (∀ a, Table.lookup a State.reset.istore = none) ∧ State.reset.program = [] ∧
  State.reset.trace = []

/-- R250: after a `reset()` call every register, flag, byte, the log, `halted` and `cycles` are at their reset values. No
step has a meaning until the next load (decision D7, log 2): a ready machine that awaits a load refuses to step, and every
call of the host but `loadProgram` that completes leaves it ready and awaiting one. -/
def Obligations.HostResetRestoresDefaults : Prop :=
  (∀ s : State, s.hostReset.cpu = State.reset.cpu ∧ s.hostReset.mem = State.reset.mem ∧ s.hostReset.accessLog = [] ∧
    s.hostReset.awaitingLoad = true ∧ step s.hostReset = .refused .stepAfterReset) ∧
  (∀ s : State, s.cpu.halted = false → s.awaitingLoad = true → step s = .refused .stepAfterReset) ∧
  (∀ (c : HostCall) (s t : State), s.cpu.halted = false → s.awaitingLoad = true → (∀ p, c ≠ .loadProgram p) →
    hostCall c s = .next t → t.cpu.halted = false ∧ t.awaitingLoad = true)

/-- R252 to R254: a program of admitted records that fits is loaded: IP 0, ready, cycles 0, trace empty, the twelve other
registers and the flags kept (the flags: decision D6), and the program list holds the records, their addresses aside
(log 17). -/
def Obligations.LoadKeepsRegistersAndFlags : Prop :=
  ∀ (s : State) (p : List Record), programWf p = true → ∃ t, s.loadProgram p = .next t ∧
    t.reg .ip = 0 ∧ (∀ r, r ≠ .ip → t.reg r = s.reg r) ∧ (∀ f, t.flag f = s.flag f) ∧
    t.cpu.halted = false ∧ t.cpu.cycles = 0 ∧ t.trace = [] ∧ t.awaitingLoad = false ∧
    t.program.map (fun r => (r.mn, r.op1, r.op2, r.bytes)) = p.map fun r => (r.mn, r.op1, r.op2, r.bytes)

/-- R252, R253, R254: after a load the store holds each record of the program at `phys(CS, offset)`, the offset the sum of
the sizes before it, and nothing else. -/
def Obligations.LoadPlacesEveryRecord : Prop :=
  ∀ (s t : State) (p : List Record), programWf p = true → s.loadProgram p = .next t →
    (∀ before r after, p = before ++ r :: after →
      ∃ q, Table.lookup (phys (s.reg .cs) (BitVec.ofNat 16 (programSize before))).toNat t.istore = some q ∧
        q.mn = r.mn ∧ q.op1 = r.op1 ∧ q.op2 = r.op2 ∧ q.bytes = r.bytes) ∧
    t.istore.length = p.length

/-- R252, R254: after a load, byte `j` of the concatenated images is at `w20(phys(CS, 0) + j)` and every other byte of
memory is 0x00. -/
def Obligations.LoadCopiesTheImage : Prop :=
  ∀ (s t : State) (p : List Record), programWf p = true → s.loadProgram p = .next t →
    (∀ j, j < programSize p →
      t.peekByte (phys (s.reg .cs) 0 + BitVec.ofNat 20 j) = (p.map Record.bytes).flatten.getD j 0) ∧
    (∀ a, (∀ j, j < programSize p → a ≠ phys (s.reg .cs) 0 + BitVec.ofNat 20 j) → t.peekByte a = 0)

/-- R253, U1, U8: a program with an inadmissible record, or of more than 0x10000 bytes, is refused. -/
def Obligations.LoadRefusesInadmissiblePrograms : Prop :=
  ∀ (s : State) (p : List Record), programWf p = false → ∃ why, s.loadProgram p = .refused why

/-- R135: `run(0)` does nothing; `run` of a ready machine with a budget left is `step` and then the rest of the run, and it
ends as `step` ends where that answers no next state; `run` of a halted machine does nothing. So running `m` and then `n`
more is running `m + n`, and a run ends halted or has used its budget, 10000 steps by default (decision D36). -/
def Obligations.RunIsItsSteps : Prop :=
  (∀ s, run 0 s = .next s) ∧
  (∀ s, s.cpu.halted = false → run 1 s = step s) ∧
  (∀ n s, s.cpu.halted = false → run (n + 1) s =
    match step s with
    | .next t => run n t
    | .fault f => .fault f
    | .refused why => .refused why) ∧
  (∀ n s, s.cpu.halted = true → run n s = .next s) ∧
  (∀ m n s t, run m s = .next t → run (m + n) s = run n t) ∧
  (∀ n s t, run n s = .next t → t.cpu.halted = true ∨ t.cpu.cycles = s.cpu.cycles + n) ∧
  (∀ s, runDefault s = run 10000 s)

/-- R73, R55 to R58: the host's accessors mask their address and value and act on memory as the byte and word accesses do,
whatever the parameter HOST_ACCESS_LOGGED. -/
def Obligations.HostAccessorsMask : Prop :=
  ∀ (s : State) (a v : Int),
    (s.getMemoryByte a).1 = s.peekByte (w20 a) ∧ (s.getMemoryWord a).1 = s.peekWord (w20 a) ∧
    (∀ b, (s.getMemoryByte a).2.peekByte b = s.peekByte b ∧ (s.getMemoryWord a).2.peekByte b = s.peekByte b) ∧
    (∀ b, (s.setMemoryByte a v).peekByte b = if b = w20 a then w8 v else s.peekByte b) ∧
    (s.setMemoryWord a v).peekWord (w20 a) = w16 v ∧ KeptOutsideWord (w20 a) s (s.setMemoryWord a v) ∧
    (s.setMemoryWord a v).cpu = s.cpu ∧ (s.setMemoryByte a v).cpu = s.cpu

/-- The invariant holds at reset. -/
def Obligations.ResetMeetsTheInvariant : Prop := Invariant State.reset

/-- The invariant is kept by every step. -/
def Obligations.StepKeepsTheInvariant : Prop := ∀ s t : State, Invariant s → step s = .next t → Invariant t

/-- The invariant is kept by every call of the host, a whole run and a program load among them (R37, R256). -/
def Obligations.HostCallsKeepTheInvariant : Prop :=
  ∀ (c : HostCall) (s t : State), Invariant s → hostCall c s = .next t → Invariant t

/-- R247: `step` has no error outcome: from every state that meets the invariant, unless the host has reset the machine and
loaded nothing since, a step answers a next state, and so does a run of any length. -/
def Obligations.StepIsTotal : Prop :=
  ∀ s : State, Invariant s → s.awaitingLoad = false →
    (∃ t, step s = .next t ∧ Invariant t ∧ t.awaitingLoad = false) ∧ ∀ n, ∃ t, run n s = .next t

/-- R88, R89: the records of an assembly without errors lie one after the other: each record's offset is the sum of the
sizes before it, for any encoder. -/
def Obligations.AssembledOffsetsAreCumulative : Prop :=
  ∀ (enc : Instr → List Byte) (source : Text), (assembleWith enc source).errors = [] →
    ∀ before r after, (assembleWith enc source).records = before ++ r :: after → r.addr = programSize before
end

