-- ==== Sys2Proof/Laws/State.lean ====
section
/-! SUPPORT. What each update of the state leaves in each field: one lemma per field per update, for simp. -/

namespace Sys2Proof.Machine

theorem Regs.get_set (g : Regs) (r q : Reg) (v : Word) : (g.set r v).get q = if q = r then v else g.get q := by
  cases r <;> cases q <;> rfl

theorem Flags.get_set (x : Flags) (f g : Flag) (b : Bool) : (x.set f b).get g = if g = f then b else x.get g := by
  cases f <;> cases g <;> rfl

/-- The log entry of a byte read. -/
abbrev readEntry (s : State) (a : PhysAddr) : Access :=
  { kind := .read, address := a, value := s.peekByte a, size := 1 }

/-- The log entry of a byte write. -/
abbrev writeEntry (a : PhysAddr) (v : Byte) : Access := { kind := .write, address := a, value := v, size := 1 }

/-- A state is its fields. -/
theorem State.ext_fields {s t : State} (hr : ∀ q, t.reg q = s.reg q) (hf : ∀ g, t.flag g = s.flag g)
    (hh : t.cpu.halted = s.cpu.halted) (hc : t.cpu.cycles = s.cpu.cycles) (hm : t.mem = s.mem)
    (hl : t.accessLog = s.accessLog) (hi : t.istore = s.istore) (hp : t.program = s.program) (ht : t.trace = s.trace)
    (ha : t.awaitingLoad = s.awaitingLoad) (hx : t.ctx = s.ctx) : t = s := by
  obtain ⟨⟨⟨_, _, _, _, _, _, _, _, _, _, _, _, _⟩, ⟨_, _, _, _⟩, _, _⟩, _, _, _, _, _, _, _⟩ := s
  obtain ⟨⟨⟨_, _, _, _, _, _, _, _, _, _, _, _, _⟩, ⟨_, _, _, _⟩, _, _⟩, _, _, _, _, _, _, _⟩ := t
  have h1 := hr .ax; have h2 := hr .bx; have h3 := hr .cx; have h4 := hr .dx
  have h5 := hr .sp; have h6 := hr .bp; have h7 := hr .si; have h8 := hr .di
  have h9 := hr .cs; have h10 := hr .ds; have h11 := hr .ss; have h12 := hr .es; have h13 := hr .ip
  have g1 := hf .zf; have g2 := hf .cf; have g3 := hf .sf; have g4 := hf .of
  simp only [State.reg, Regs.get, State.flag, Flags.get] at h1 h2 h3 h4 h5 h6 h7 h8 h9 h10 h11 h12 h13 g1 g2 g3 g4
  simp_all

/-! A write of a register -/

@[simp] theorem State.setReg_reg (s : State) (r : Reg) (v : Word) (q : Reg) :
    (s.setReg r v).reg q = if q = r then v else s.reg q :=
  Regs.get_set s.cpu.regs r q v

@[simp] theorem State.setReg_flag (s : State) (r : Reg) (v : Word) (g : Flag) :
    (s.setReg r v).flag g = s.flag g :=
  rfl

@[simp] theorem State.setReg_halted (s : State) (r : Reg) (v : Word) : (s.setReg r v).cpu.halted = s.cpu.halted := rfl

@[simp] theorem State.setReg_cycles (s : State) (r : Reg) (v : Word) : (s.setReg r v).cpu.cycles = s.cpu.cycles := rfl

@[simp] theorem State.setReg_mem (s : State) (r : Reg) (v : Word) : (s.setReg r v).mem = s.mem := rfl

@[simp] theorem State.setReg_peekByte (s : State) (r : Reg) (v : Word) (c : PhysAddr) :
    (s.setReg r v).peekByte c = s.peekByte c :=
  rfl

@[simp] theorem State.setReg_accessLog (s : State) (r : Reg) (v : Word) :
    (s.setReg r v).accessLog = s.accessLog :=
  rfl

@[simp] theorem State.setReg_istore (s : State) (r : Reg) (v : Word) : (s.setReg r v).istore = s.istore := rfl

@[simp] theorem State.setReg_program (s : State) (r : Reg) (v : Word) : (s.setReg r v).program = s.program := rfl

@[simp] theorem State.setReg_trace (s : State) (r : Reg) (v : Word) : (s.setReg r v).trace = s.trace := rfl

@[simp] theorem State.setReg_awaitingLoad (s : State) (r : Reg) (v : Word) :
    (s.setReg r v).awaitingLoad = s.awaitingLoad :=
  rfl

@[simp] theorem State.setReg_size (s : State) (r : Reg) (v : Word) : (s.setReg r v).ctx.size = s.ctx.size := rfl

@[simp] theorem State.setReg_changedRegs (s : State) (r : Reg) (v : Word) :
    (s.setReg r v).ctx.changedRegs = s.ctx.changedRegs :=
  rfl

@[simp] theorem State.setReg_changedFlags (s : State) (r : Reg) (v : Word) :
    (s.setReg r v).ctx.changedFlags = s.ctx.changedFlags :=
  rfl

@[simp] theorem State.setReg_result (s : State) (r : Reg) (v : Word) : (s.setReg r v).ctx.result = s.ctx.result := rfl

/-! A write of a flag -/

@[simp] theorem State.setFlag_reg (s : State) (f : Flag) (b : Bool) (q : Reg) : (s.setFlag f b).reg q = s.reg q := rfl

@[simp] theorem State.setFlag_flag (s : State) (f : Flag) (b : Bool) (g : Flag) :
    (s.setFlag f b).flag g = if g = f then b else s.flag g :=
  Flags.get_set s.cpu.flags f g b

@[simp] theorem State.setFlag_halted (s : State) (f : Flag) (b : Bool) :
    (s.setFlag f b).cpu.halted = s.cpu.halted :=
  rfl

@[simp] theorem State.setFlag_cycles (s : State) (f : Flag) (b : Bool) :
    (s.setFlag f b).cpu.cycles = s.cpu.cycles :=
  rfl

@[simp] theorem State.setFlag_mem (s : State) (f : Flag) (b : Bool) : (s.setFlag f b).mem = s.mem := rfl

@[simp] theorem State.setFlag_peekByte (s : State) (f : Flag) (b : Bool) (c : PhysAddr) :
    (s.setFlag f b).peekByte c = s.peekByte c :=
  rfl

@[simp] theorem State.setFlag_accessLog (s : State) (f : Flag) (b : Bool) :
    (s.setFlag f b).accessLog = s.accessLog :=
  rfl

@[simp] theorem State.setFlag_istore (s : State) (f : Flag) (b : Bool) : (s.setFlag f b).istore = s.istore := rfl

@[simp] theorem State.setFlag_program (s : State) (f : Flag) (b : Bool) : (s.setFlag f b).program = s.program := rfl

@[simp] theorem State.setFlag_trace (s : State) (f : Flag) (b : Bool) : (s.setFlag f b).trace = s.trace := rfl

@[simp] theorem State.setFlag_awaitingLoad (s : State) (f : Flag) (b : Bool) :
    (s.setFlag f b).awaitingLoad = s.awaitingLoad :=
  rfl

@[simp] theorem State.setFlag_size (s : State) (f : Flag) (b : Bool) : (s.setFlag f b).ctx.size = s.ctx.size := rfl

@[simp] theorem State.setFlag_changedRegs (s : State) (f : Flag) (b : Bool) :
    (s.setFlag f b).ctx.changedRegs = s.ctx.changedRegs :=
  rfl

@[simp] theorem State.setFlag_changedFlags (s : State) (f : Flag) (b : Bool) :
    (s.setFlag f b).ctx.changedFlags = s.ctx.changedFlags :=
  rfl

@[simp] theorem State.setFlag_result (s : State) (f : Flag) (b : Bool) :
    (s.setFlag f b).ctx.result = s.ctx.result :=
  rfl

/-! A register mark -/

@[simp] theorem State.markReg_reg (s : State) (r : Reg) (q : Reg) : (s.markReg r).reg q = s.reg q := rfl

@[simp] theorem State.markReg_flag (s : State) (r : Reg) (g : Flag) : (s.markReg r).flag g = s.flag g := rfl

@[simp] theorem State.markReg_halted (s : State) (r : Reg) : (s.markReg r).cpu.halted = s.cpu.halted := rfl

@[simp] theorem State.markReg_cycles (s : State) (r : Reg) : (s.markReg r).cpu.cycles = s.cpu.cycles := rfl

@[simp] theorem State.markReg_mem (s : State) (r : Reg) : (s.markReg r).mem = s.mem := rfl

@[simp] theorem State.markReg_peekByte (s : State) (r : Reg) (c : PhysAddr) :
    (s.markReg r).peekByte c = s.peekByte c :=
  rfl

@[simp] theorem State.markReg_accessLog (s : State) (r : Reg) : (s.markReg r).accessLog = s.accessLog := rfl

@[simp] theorem State.markReg_istore (s : State) (r : Reg) : (s.markReg r).istore = s.istore := rfl

@[simp] theorem State.markReg_program (s : State) (r : Reg) : (s.markReg r).program = s.program := rfl

@[simp] theorem State.markReg_trace (s : State) (r : Reg) : (s.markReg r).trace = s.trace := rfl

@[simp] theorem State.markReg_awaitingLoad (s : State) (r : Reg) : (s.markReg r).awaitingLoad = s.awaitingLoad := rfl

@[simp] theorem State.markReg_size (s : State) (r : Reg) : (s.markReg r).ctx.size = s.ctx.size := rfl

@[simp] theorem State.markReg_changedRegs (s : State) (r : Reg) :
    (s.markReg r).ctx.changedRegs = addName Reg.all r s.ctx.changedRegs :=
  rfl

@[simp] theorem State.markReg_changedFlags (s : State) (r : Reg) :
    (s.markReg r).ctx.changedFlags = s.ctx.changedFlags :=
  rfl

@[simp] theorem State.markReg_result (s : State) (r : Reg) : (s.markReg r).ctx.result = s.ctx.result := rfl

/-! A flag mark -/

@[simp] theorem State.markFlag_reg (s : State) (f : Flag) (q : Reg) : (s.markFlag f).reg q = s.reg q := rfl

@[simp] theorem State.markFlag_flag (s : State) (f : Flag) (g : Flag) : (s.markFlag f).flag g = s.flag g := rfl

@[simp] theorem State.markFlag_halted (s : State) (f : Flag) : (s.markFlag f).cpu.halted = s.cpu.halted := rfl

@[simp] theorem State.markFlag_cycles (s : State) (f : Flag) : (s.markFlag f).cpu.cycles = s.cpu.cycles := rfl

@[simp] theorem State.markFlag_mem (s : State) (f : Flag) : (s.markFlag f).mem = s.mem := rfl

@[simp] theorem State.markFlag_peekByte (s : State) (f : Flag) (c : PhysAddr) :
    (s.markFlag f).peekByte c = s.peekByte c :=
  rfl

@[simp] theorem State.markFlag_accessLog (s : State) (f : Flag) : (s.markFlag f).accessLog = s.accessLog := rfl

@[simp] theorem State.markFlag_istore (s : State) (f : Flag) : (s.markFlag f).istore = s.istore := rfl

@[simp] theorem State.markFlag_program (s : State) (f : Flag) : (s.markFlag f).program = s.program := rfl

@[simp] theorem State.markFlag_trace (s : State) (f : Flag) : (s.markFlag f).trace = s.trace := rfl

@[simp] theorem State.markFlag_awaitingLoad (s : State) (f : Flag) :
    (s.markFlag f).awaitingLoad = s.awaitingLoad :=
  rfl

@[simp] theorem State.markFlag_size (s : State) (f : Flag) : (s.markFlag f).ctx.size = s.ctx.size := rfl

@[simp] theorem State.markFlag_changedRegs (s : State) (f : Flag) :
    (s.markFlag f).ctx.changedRegs = s.ctx.changedRegs :=
  rfl

@[simp] theorem State.markFlag_changedFlags (s : State) (f : Flag) :
    (s.markFlag f).ctx.changedFlags = addName Flag.all f s.ctx.changedFlags :=
  rfl

@[simp] theorem State.markFlag_result (s : State) (f : Flag) : (s.markFlag f).ctx.result = s.ctx.result := rfl

/-! A marked write of a register -/

@[simp] theorem State.assign_reg (s : State) (r : Reg) (v : Word) (q : Reg) :
    (s.assign r v).reg q = if q = r then v else s.reg q :=
  Regs.get_set s.cpu.regs r q v

@[simp] theorem State.assign_flag (s : State) (r : Reg) (v : Word) (g : Flag) :
    (s.assign r v).flag g = s.flag g :=
  rfl

@[simp] theorem State.assign_halted (s : State) (r : Reg) (v : Word) : (s.assign r v).cpu.halted = s.cpu.halted := rfl

@[simp] theorem State.assign_cycles (s : State) (r : Reg) (v : Word) : (s.assign r v).cpu.cycles = s.cpu.cycles := rfl

@[simp] theorem State.assign_mem (s : State) (r : Reg) (v : Word) : (s.assign r v).mem = s.mem := rfl

@[simp] theorem State.assign_peekByte (s : State) (r : Reg) (v : Word) (c : PhysAddr) :
    (s.assign r v).peekByte c = s.peekByte c :=
  rfl

@[simp] theorem State.assign_accessLog (s : State) (r : Reg) (v : Word) :
    (s.assign r v).accessLog = s.accessLog :=
  rfl

@[simp] theorem State.assign_istore (s : State) (r : Reg) (v : Word) : (s.assign r v).istore = s.istore := rfl

@[simp] theorem State.assign_program (s : State) (r : Reg) (v : Word) : (s.assign r v).program = s.program := rfl

@[simp] theorem State.assign_trace (s : State) (r : Reg) (v : Word) : (s.assign r v).trace = s.trace := rfl

@[simp] theorem State.assign_awaitingLoad (s : State) (r : Reg) (v : Word) :
    (s.assign r v).awaitingLoad = s.awaitingLoad :=
  rfl

@[simp] theorem State.assign_size (s : State) (r : Reg) (v : Word) : (s.assign r v).ctx.size = s.ctx.size := rfl

@[simp] theorem State.assign_changedRegs (s : State) (r : Reg) (v : Word) :
    (s.assign r v).ctx.changedRegs = addName Reg.all r s.ctx.changedRegs :=
  rfl

@[simp] theorem State.assign_changedFlags (s : State) (r : Reg) (v : Word) :
    (s.assign r v).ctx.changedFlags = s.ctx.changedFlags :=
  rfl

@[simp] theorem State.assign_result (s : State) (r : Reg) (v : Word) : (s.assign r v).ctx.result = s.ctx.result := rfl

/-! A marked write of a flag -/

@[simp] theorem State.assignFlag_reg (s : State) (f : Flag) (b : Bool) (q : Reg) :
    (s.assignFlag f b).reg q = s.reg q :=
  rfl

@[simp] theorem State.assignFlag_flag (s : State) (f : Flag) (b : Bool) (g : Flag) :
    (s.assignFlag f b).flag g = if g = f then b else s.flag g :=
  Flags.get_set s.cpu.flags f g b

@[simp] theorem State.assignFlag_halted (s : State) (f : Flag) (b : Bool) :
    (s.assignFlag f b).cpu.halted = s.cpu.halted :=
  rfl

@[simp] theorem State.assignFlag_cycles (s : State) (f : Flag) (b : Bool) :
    (s.assignFlag f b).cpu.cycles = s.cpu.cycles :=
  rfl

@[simp] theorem State.assignFlag_mem (s : State) (f : Flag) (b : Bool) : (s.assignFlag f b).mem = s.mem := rfl

@[simp] theorem State.assignFlag_peekByte (s : State) (f : Flag) (b : Bool) (c : PhysAddr) :
    (s.assignFlag f b).peekByte c = s.peekByte c :=
  rfl

@[simp] theorem State.assignFlag_accessLog (s : State) (f : Flag) (b : Bool) :
    (s.assignFlag f b).accessLog = s.accessLog :=
  rfl

@[simp] theorem State.assignFlag_istore (s : State) (f : Flag) (b : Bool) :
    (s.assignFlag f b).istore = s.istore :=
  rfl

@[simp] theorem State.assignFlag_program (s : State) (f : Flag) (b : Bool) :
    (s.assignFlag f b).program = s.program :=
  rfl

@[simp] theorem State.assignFlag_trace (s : State) (f : Flag) (b : Bool) : (s.assignFlag f b).trace = s.trace := rfl

@[simp] theorem State.assignFlag_awaitingLoad (s : State) (f : Flag) (b : Bool) :
    (s.assignFlag f b).awaitingLoad = s.awaitingLoad :=
  rfl

@[simp] theorem State.assignFlag_size (s : State) (f : Flag) (b : Bool) :
    (s.assignFlag f b).ctx.size = s.ctx.size :=
  rfl

@[simp] theorem State.assignFlag_changedRegs (s : State) (f : Flag) (b : Bool) :
    (s.assignFlag f b).ctx.changedRegs = s.ctx.changedRegs :=
  rfl

@[simp] theorem State.assignFlag_changedFlags (s : State) (f : Flag) (b : Bool) :
    (s.assignFlag f b).ctx.changedFlags = addName Flag.all f s.ctx.changedFlags :=
  rfl

@[simp] theorem State.assignFlag_result (s : State) (f : Flag) (b : Bool) :
    (s.assignFlag f b).ctx.result = s.ctx.result :=
  rfl

/-! A marked write of a destination operand -/

@[simp] theorem State.assignOp_reg (s : State) (d : OpReg) (v : Word) (q : Reg) :
    (s.assignOp d v).reg q = if q = d.toReg then v else s.reg q :=
  Regs.get_set s.cpu.regs d.toReg q v

@[simp] theorem State.assignOp_flag (s : State) (d : OpReg) (v : Word) (g : Flag) :
    (s.assignOp d v).flag g = s.flag g :=
  rfl

@[simp] theorem State.assignOp_halted (s : State) (d : OpReg) (v : Word) :
    (s.assignOp d v).cpu.halted = s.cpu.halted :=
  rfl

@[simp] theorem State.assignOp_cycles (s : State) (d : OpReg) (v : Word) :
    (s.assignOp d v).cpu.cycles = s.cpu.cycles :=
  rfl

@[simp] theorem State.assignOp_mem (s : State) (d : OpReg) (v : Word) : (s.assignOp d v).mem = s.mem := rfl

@[simp] theorem State.assignOp_peekByte (s : State) (d : OpReg) (v : Word) (c : PhysAddr) :
    (s.assignOp d v).peekByte c = s.peekByte c :=
  rfl

@[simp] theorem State.assignOp_accessLog (s : State) (d : OpReg) (v : Word) :
    (s.assignOp d v).accessLog = s.accessLog :=
  rfl

@[simp] theorem State.assignOp_istore (s : State) (d : OpReg) (v : Word) : (s.assignOp d v).istore = s.istore := rfl

@[simp] theorem State.assignOp_program (s : State) (d : OpReg) (v : Word) :
    (s.assignOp d v).program = s.program :=
  rfl

@[simp] theorem State.assignOp_trace (s : State) (d : OpReg) (v : Word) : (s.assignOp d v).trace = s.trace := rfl

@[simp] theorem State.assignOp_awaitingLoad (s : State) (d : OpReg) (v : Word) :
    (s.assignOp d v).awaitingLoad = s.awaitingLoad :=
  rfl

@[simp] theorem State.assignOp_size (s : State) (d : OpReg) (v : Word) : (s.assignOp d v).ctx.size = s.ctx.size := rfl

@[simp] theorem State.assignOp_changedRegs (s : State) (d : OpReg) (v : Word) :
    (s.assignOp d v).ctx.changedRegs = addName Reg.all d.toReg s.ctx.changedRegs :=
  rfl

@[simp] theorem State.assignOp_changedFlags (s : State) (d : OpReg) (v : Word) :
    (s.assignOp d v).ctx.changedFlags = s.ctx.changedFlags :=
  rfl

@[simp] theorem State.assignOp_result (s : State) (d : OpReg) (v : Word) :
    (s.assignOp d v).ctx.result = s.ctx.result :=
  rfl

/-! `advance()` -/

@[simp] theorem State.advance_reg (s : State) (q : Reg) :
    (s.advance).reg q = if q = .ip then s.returnOffset else s.reg q :=
  Regs.get_set s.cpu.regs .ip q _

@[simp] theorem State.advance_flag (s : State) (g : Flag) : (s.advance).flag g = s.flag g := rfl

@[simp] theorem State.advance_halted (s : State) : (s.advance).cpu.halted = s.cpu.halted := rfl

@[simp] theorem State.advance_cycles (s : State) : (s.advance).cpu.cycles = s.cpu.cycles := rfl

@[simp] theorem State.advance_mem (s : State) : (s.advance).mem = s.mem := rfl

@[simp] theorem State.advance_peekByte (s : State) (c : PhysAddr) : (s.advance).peekByte c = s.peekByte c := rfl

@[simp] theorem State.advance_accessLog (s : State) : (s.advance).accessLog = s.accessLog := rfl

@[simp] theorem State.advance_istore (s : State) : (s.advance).istore = s.istore := rfl

@[simp] theorem State.advance_program (s : State) : (s.advance).program = s.program := rfl

@[simp] theorem State.advance_trace (s : State) : (s.advance).trace = s.trace := rfl

@[simp] theorem State.advance_awaitingLoad (s : State) : (s.advance).awaitingLoad = s.awaitingLoad := rfl

@[simp] theorem State.advance_size (s : State) : (s.advance).ctx.size = s.ctx.size := rfl

@[simp] theorem State.advance_changedRegs (s : State) : (s.advance).ctx.changedRegs = s.ctx.changedRegs := rfl

@[simp] theorem State.advance_changedFlags (s : State) : (s.advance).ctx.changedFlags = s.ctx.changedFlags := rfl

@[simp] theorem State.advance_result (s : State) : (s.advance).ctx.result = s.ctx.result := rfl

/-! A transfer -/

@[simp] theorem State.jumpTo_reg (s : State) (t : Word) (q : Reg) :
    (s.jumpTo t).reg q = if q = .ip then t else s.reg q :=
  Regs.get_set s.cpu.regs .ip q t

@[simp] theorem State.jumpTo_flag (s : State) (t : Word) (g : Flag) : (s.jumpTo t).flag g = s.flag g := rfl

@[simp] theorem State.jumpTo_halted (s : State) (t : Word) : (s.jumpTo t).cpu.halted = s.cpu.halted := rfl

@[simp] theorem State.jumpTo_cycles (s : State) (t : Word) : (s.jumpTo t).cpu.cycles = s.cpu.cycles := rfl

@[simp] theorem State.jumpTo_mem (s : State) (t : Word) : (s.jumpTo t).mem = s.mem := rfl

@[simp] theorem State.jumpTo_peekByte (s : State) (t : Word) (c : PhysAddr) :
    (s.jumpTo t).peekByte c = s.peekByte c :=
  rfl

@[simp] theorem State.jumpTo_accessLog (s : State) (t : Word) : (s.jumpTo t).accessLog = s.accessLog := rfl

@[simp] theorem State.jumpTo_istore (s : State) (t : Word) : (s.jumpTo t).istore = s.istore := rfl

@[simp] theorem State.jumpTo_program (s : State) (t : Word) : (s.jumpTo t).program = s.program := rfl

@[simp] theorem State.jumpTo_trace (s : State) (t : Word) : (s.jumpTo t).trace = s.trace := rfl

@[simp] theorem State.jumpTo_awaitingLoad (s : State) (t : Word) : (s.jumpTo t).awaitingLoad = s.awaitingLoad := rfl

@[simp] theorem State.jumpTo_size (s : State) (t : Word) : (s.jumpTo t).ctx.size = s.ctx.size := rfl

@[simp] theorem State.jumpTo_changedRegs (s : State) (t : Word) :
    (s.jumpTo t).ctx.changedRegs = addName Reg.all .ip s.ctx.changedRegs :=
  rfl

@[simp] theorem State.jumpTo_changedFlags (s : State) (t : Word) :
    (s.jumpTo t).ctx.changedFlags = s.ctx.changedFlags :=
  rfl

@[simp] theorem State.jumpTo_result (s : State) (t : Word) : (s.jumpTo t).ctx.result = s.ctx.result := rfl

/-! The halt -/

@[simp] theorem State.halt_reg (s : State) (q : Reg) : (s.halt).reg q = s.reg q := rfl

@[simp] theorem State.halt_flag (s : State) (g : Flag) : (s.halt).flag g = s.flag g := rfl

@[simp] theorem State.halt_halted (s : State) : (s.halt).cpu.halted = true := rfl

@[simp] theorem State.halt_cycles (s : State) : (s.halt).cpu.cycles = s.cpu.cycles := rfl

@[simp] theorem State.halt_mem (s : State) : (s.halt).mem = s.mem := rfl

@[simp] theorem State.halt_peekByte (s : State) (c : PhysAddr) : (s.halt).peekByte c = s.peekByte c := rfl

@[simp] theorem State.halt_accessLog (s : State) : (s.halt).accessLog = s.accessLog := rfl

@[simp] theorem State.halt_istore (s : State) : (s.halt).istore = s.istore := rfl

@[simp] theorem State.halt_program (s : State) : (s.halt).program = s.program := rfl

@[simp] theorem State.halt_trace (s : State) : (s.halt).trace = s.trace := rfl

@[simp] theorem State.halt_awaitingLoad (s : State) : (s.halt).awaitingLoad = s.awaitingLoad := rfl

@[simp] theorem State.halt_size (s : State) : (s.halt).ctx.size = s.ctx.size := rfl

@[simp] theorem State.halt_changedRegs (s : State) : (s.halt).ctx.changedRegs = s.ctx.changedRegs := rfl

@[simp] theorem State.halt_changedFlags (s : State) : (s.halt).ctx.changedFlags = s.ctx.changedFlags := rfl

@[simp] theorem State.halt_result (s : State) : (s.halt).ctx.result = s.ctx.result := rfl

/-! The handler's result -/

@[simp] theorem State.setResult_reg (s : State) (x : HandlerResult) (q : Reg) : (s.setResult x).reg q = s.reg q := rfl

@[simp] theorem State.setResult_flag (s : State) (x : HandlerResult) (g : Flag) :
    (s.setResult x).flag g = s.flag g :=
  rfl

@[simp] theorem State.setResult_halted (s : State) (x : HandlerResult) :
    (s.setResult x).cpu.halted = s.cpu.halted :=
  rfl

@[simp] theorem State.setResult_cycles (s : State) (x : HandlerResult) :
    (s.setResult x).cpu.cycles = s.cpu.cycles :=
  rfl

@[simp] theorem State.setResult_mem (s : State) (x : HandlerResult) : (s.setResult x).mem = s.mem := rfl

@[simp] theorem State.setResult_peekByte (s : State) (x : HandlerResult) (c : PhysAddr) :
    (s.setResult x).peekByte c = s.peekByte c :=
  rfl

@[simp] theorem State.setResult_accessLog (s : State) (x : HandlerResult) :
    (s.setResult x).accessLog = s.accessLog :=
  rfl

@[simp] theorem State.setResult_istore (s : State) (x : HandlerResult) : (s.setResult x).istore = s.istore := rfl

@[simp] theorem State.setResult_program (s : State) (x : HandlerResult) : (s.setResult x).program = s.program := rfl

@[simp] theorem State.setResult_trace (s : State) (x : HandlerResult) : (s.setResult x).trace = s.trace := rfl

@[simp] theorem State.setResult_awaitingLoad (s : State) (x : HandlerResult) :
    (s.setResult x).awaitingLoad = s.awaitingLoad :=
  rfl

@[simp] theorem State.setResult_size (s : State) (x : HandlerResult) : (s.setResult x).ctx.size = s.ctx.size := rfl

@[simp] theorem State.setResult_changedRegs (s : State) (x : HandlerResult) :
    (s.setResult x).ctx.changedRegs = s.ctx.changedRegs :=
  rfl

@[simp] theorem State.setResult_changedFlags (s : State) (x : HandlerResult) :
    (s.setResult x).ctx.changedFlags = s.ctx.changedFlags :=
  rfl

@[simp] theorem State.setResult_result (s : State) (x : HandlerResult) : (s.setResult x).ctx.result = x := rfl

/-! A runtime fault -/

@[simp] theorem State.raiseFault_reg (s : State) (k : RuntimeFault) (m : String) (q : Reg) :
    (s.raiseFault k m).reg q = s.reg q :=
  rfl

@[simp] theorem State.raiseFault_flag (s : State) (k : RuntimeFault) (m : String) (g : Flag) :
    (s.raiseFault k m).flag g = s.flag g :=
  rfl

@[simp] theorem State.raiseFault_halted (s : State) (k : RuntimeFault) (m : String) :
    (s.raiseFault k m).cpu.halted = true :=
  rfl

@[simp] theorem State.raiseFault_cycles (s : State) (k : RuntimeFault) (m : String) :
    (s.raiseFault k m).cpu.cycles = s.cpu.cycles :=
  rfl

@[simp] theorem State.raiseFault_mem (s : State) (k : RuntimeFault) (m : String) :
    (s.raiseFault k m).mem = s.mem :=
  rfl

@[simp] theorem State.raiseFault_peekByte (s : State) (k : RuntimeFault) (m : String) (c : PhysAddr) :
    (s.raiseFault k m).peekByte c = s.peekByte c :=
  rfl

@[simp] theorem State.raiseFault_accessLog (s : State) (k : RuntimeFault) (m : String) :
    (s.raiseFault k m).accessLog = s.accessLog :=
  rfl

@[simp] theorem State.raiseFault_istore (s : State) (k : RuntimeFault) (m : String) :
    (s.raiseFault k m).istore = s.istore :=
  rfl

@[simp] theorem State.raiseFault_program (s : State) (k : RuntimeFault) (m : String) :
    (s.raiseFault k m).program = s.program :=
  rfl

@[simp] theorem State.raiseFault_trace (s : State) (k : RuntimeFault) (m : String) :
    (s.raiseFault k m).trace = s.trace :=
  rfl

@[simp] theorem State.raiseFault_awaitingLoad (s : State) (k : RuntimeFault) (m : String) :
    (s.raiseFault k m).awaitingLoad = s.awaitingLoad :=
  rfl

@[simp] theorem State.raiseFault_size (s : State) (k : RuntimeFault) (m : String) :
    (s.raiseFault k m).ctx.size = s.ctx.size :=
  rfl

@[simp] theorem State.raiseFault_changedRegs (s : State) (k : RuntimeFault) (m : String) :
    (s.raiseFault k m).ctx.changedRegs = s.ctx.changedRegs :=
  rfl

@[simp] theorem State.raiseFault_changedFlags (s : State) (k : RuntimeFault) (m : String) :
    (s.raiseFault k m).ctx.changedFlags = s.ctx.changedFlags :=
  rfl

@[simp] theorem State.raiseFault_result (s : State) (k : RuntimeFault) (m : String) :
    (s.raiseFault k m).ctx.result = .raised k m :=
  rfl

/-! The unknown-mnemonic path -/

@[simp] theorem State.unknownInstruction_reg (s : State) (q : Reg) :
    (s.unknownInstruction).reg q = if q = .ip then s.returnOffset else s.reg q :=
  Regs.get_set s.cpu.regs .ip q _

@[simp] theorem State.unknownInstruction_flag (s : State) (g : Flag) : (s.unknownInstruction).flag g = s.flag g := rfl

@[simp] theorem State.unknownInstruction_halted (s : State) : (s.unknownInstruction).cpu.halted = s.cpu.halted := rfl

@[simp] theorem State.unknownInstruction_cycles (s : State) : (s.unknownInstruction).cpu.cycles = s.cpu.cycles := rfl

@[simp] theorem State.unknownInstruction_mem (s : State) : (s.unknownInstruction).mem = s.mem := rfl

@[simp] theorem State.unknownInstruction_peekByte (s : State) (c : PhysAddr) :
    (s.unknownInstruction).peekByte c = s.peekByte c :=
  rfl

@[simp] theorem State.unknownInstruction_accessLog (s : State) : (s.unknownInstruction).accessLog = s.accessLog := rfl

@[simp] theorem State.unknownInstruction_istore (s : State) : (s.unknownInstruction).istore = s.istore := rfl

@[simp] theorem State.unknownInstruction_program (s : State) : (s.unknownInstruction).program = s.program := rfl

@[simp] theorem State.unknownInstruction_trace (s : State) : (s.unknownInstruction).trace = s.trace := rfl

@[simp] theorem State.unknownInstruction_awaitingLoad (s : State) :
    (s.unknownInstruction).awaitingLoad = s.awaitingLoad :=
  rfl

@[simp] theorem State.unknownInstruction_size (s : State) : (s.unknownInstruction).ctx.size = s.ctx.size := rfl

@[simp] theorem State.unknownInstruction_changedRegs (s : State) :
    (s.unknownInstruction).ctx.changedRegs = s.ctx.changedRegs :=
  rfl

@[simp] theorem State.unknownInstruction_changedFlags (s : State) :
    (s.unknownInstruction).ctx.changedFlags = s.ctx.changedFlags :=
  rfl

@[simp] theorem State.unknownInstruction_result (s : State) :
    (s.unknownInstruction).ctx.result = .unknownInstruction :=
  rfl

/-! `set_zs` -/

@[simp] theorem State.setZs_reg (s : State) (v : Word) (q : Reg) : (s.setZs v).reg q = s.reg q := rfl

@[simp] theorem State.setZs_flag (s : State) (v : Word) (g : Flag) :
    (s.setZs v).flag g = if g = .sf then signFlag v else if g = .zf then zeroFlag v else s.flag g :=
  by cases g <;> rfl

@[simp] theorem State.setZs_halted (s : State) (v : Word) : (s.setZs v).cpu.halted = s.cpu.halted := rfl

@[simp] theorem State.setZs_cycles (s : State) (v : Word) : (s.setZs v).cpu.cycles = s.cpu.cycles := rfl

@[simp] theorem State.setZs_mem (s : State) (v : Word) : (s.setZs v).mem = s.mem := rfl

@[simp] theorem State.setZs_peekByte (s : State) (v : Word) (c : PhysAddr) :
    (s.setZs v).peekByte c = s.peekByte c :=
  rfl

@[simp] theorem State.setZs_accessLog (s : State) (v : Word) : (s.setZs v).accessLog = s.accessLog := rfl

@[simp] theorem State.setZs_istore (s : State) (v : Word) : (s.setZs v).istore = s.istore := rfl

@[simp] theorem State.setZs_program (s : State) (v : Word) : (s.setZs v).program = s.program := rfl

@[simp] theorem State.setZs_trace (s : State) (v : Word) : (s.setZs v).trace = s.trace := rfl

@[simp] theorem State.setZs_awaitingLoad (s : State) (v : Word) : (s.setZs v).awaitingLoad = s.awaitingLoad := rfl

@[simp] theorem State.setZs_size (s : State) (v : Word) : (s.setZs v).ctx.size = s.ctx.size := rfl

@[simp] theorem State.setZs_changedRegs (s : State) (v : Word) :
    (s.setZs v).ctx.changedRegs = s.ctx.changedRegs :=
  rfl

@[simp] theorem State.setZs_changedFlags (s : State) (v : Word) :
    (s.setZs v).ctx.changedFlags = addName Flag.all .sf (addName Flag.all .zf s.ctx.changedFlags) :=
  rfl

@[simp] theorem State.setZs_result (s : State) (v : Word) : (s.setZs v).ctx.result = s.ctx.result := rfl

/-! A log entry -/

@[simp] theorem State.logPush_reg (s : State) (e : Access) (q : Reg) : (s.logPush e).reg q = s.reg q := rfl

@[simp] theorem State.logPush_flag (s : State) (e : Access) (g : Flag) : (s.logPush e).flag g = s.flag g := rfl

@[simp] theorem State.logPush_halted (s : State) (e : Access) : (s.logPush e).cpu.halted = s.cpu.halted := rfl

@[simp] theorem State.logPush_cycles (s : State) (e : Access) : (s.logPush e).cpu.cycles = s.cpu.cycles := rfl

@[simp] theorem State.logPush_mem (s : State) (e : Access) : (s.logPush e).mem = s.mem := rfl

@[simp] theorem State.logPush_peekByte (s : State) (e : Access) (c : PhysAddr) :
    (s.logPush e).peekByte c = s.peekByte c :=
  rfl

@[simp] theorem State.logPush_accessLog (s : State) (e : Access) :
    (s.logPush e).accessLog = pushAccess s.accessLog e :=
  rfl

@[simp] theorem State.logPush_istore (s : State) (e : Access) : (s.logPush e).istore = s.istore := rfl

@[simp] theorem State.logPush_program (s : State) (e : Access) : (s.logPush e).program = s.program := rfl

@[simp] theorem State.logPush_trace (s : State) (e : Access) : (s.logPush e).trace = s.trace := rfl

@[simp] theorem State.logPush_awaitingLoad (s : State) (e : Access) :
    (s.logPush e).awaitingLoad = s.awaitingLoad :=
  rfl

@[simp] theorem State.logPush_size (s : State) (e : Access) : (s.logPush e).ctx.size = s.ctx.size := rfl

@[simp] theorem State.logPush_changedRegs (s : State) (e : Access) :
    (s.logPush e).ctx.changedRegs = s.ctx.changedRegs :=
  rfl

@[simp] theorem State.logPush_changedFlags (s : State) (e : Access) :
    (s.logPush e).ctx.changedFlags = s.ctx.changedFlags :=
  rfl

@[simp] theorem State.logPush_result (s : State) (e : Access) : (s.logPush e).ctx.result = s.ctx.result := rfl

/-! The log cleared -/

@[simp] theorem State.clearLog_reg (s : State) (q : Reg) : (s.clearLog).reg q = s.reg q := rfl

@[simp] theorem State.clearLog_flag (s : State) (g : Flag) : (s.clearLog).flag g = s.flag g := rfl

@[simp] theorem State.clearLog_halted (s : State) : (s.clearLog).cpu.halted = s.cpu.halted := rfl

@[simp] theorem State.clearLog_cycles (s : State) : (s.clearLog).cpu.cycles = s.cpu.cycles := rfl

@[simp] theorem State.clearLog_mem (s : State) : (s.clearLog).mem = s.mem := rfl

@[simp] theorem State.clearLog_peekByte (s : State) (c : PhysAddr) : (s.clearLog).peekByte c = s.peekByte c := rfl

@[simp] theorem State.clearLog_accessLog (s : State) : (s.clearLog).accessLog = [] := rfl

@[simp] theorem State.clearLog_istore (s : State) : (s.clearLog).istore = s.istore := rfl

@[simp] theorem State.clearLog_program (s : State) : (s.clearLog).program = s.program := rfl

@[simp] theorem State.clearLog_trace (s : State) : (s.clearLog).trace = s.trace := rfl

@[simp] theorem State.clearLog_awaitingLoad (s : State) : (s.clearLog).awaitingLoad = s.awaitingLoad := rfl

@[simp] theorem State.clearLog_size (s : State) : (s.clearLog).ctx.size = s.ctx.size := rfl

@[simp] theorem State.clearLog_changedRegs (s : State) : (s.clearLog).ctx.changedRegs = s.ctx.changedRegs := rfl

@[simp] theorem State.clearLog_changedFlags (s : State) : (s.clearLog).ctx.changedFlags = s.ctx.changedFlags := rfl

@[simp] theorem State.clearLog_result (s : State) : (s.clearLog).ctx.result = s.ctx.result := rfl

/-! An unlogged byte write -/

@[simp] theorem State.pokeByte_reg (s : State) (a : PhysAddr) (v : Byte) (q : Reg) :
    (s.pokeByte a v).reg q = s.reg q :=
  rfl

@[simp] theorem State.pokeByte_flag (s : State) (a : PhysAddr) (v : Byte) (g : Flag) :
    (s.pokeByte a v).flag g = s.flag g :=
  rfl

@[simp] theorem State.pokeByte_halted (s : State) (a : PhysAddr) (v : Byte) :
    (s.pokeByte a v).cpu.halted = s.cpu.halted :=
  rfl

@[simp] theorem State.pokeByte_cycles (s : State) (a : PhysAddr) (v : Byte) :
    (s.pokeByte a v).cpu.cycles = s.cpu.cycles :=
  rfl

@[simp] theorem State.pokeByte_mem (s : State) (a : PhysAddr) (v : Byte) :
    (s.pokeByte a v).mem = Memory.write s.mem a v :=
  rfl

@[simp] theorem State.pokeByte_accessLog (s : State) (a : PhysAddr) (v : Byte) :
    (s.pokeByte a v).accessLog = s.accessLog :=
  rfl

@[simp] theorem State.pokeByte_istore (s : State) (a : PhysAddr) (v : Byte) :
    (s.pokeByte a v).istore = s.istore :=
  rfl

@[simp] theorem State.pokeByte_program (s : State) (a : PhysAddr) (v : Byte) :
    (s.pokeByte a v).program = s.program :=
  rfl

@[simp] theorem State.pokeByte_trace (s : State) (a : PhysAddr) (v : Byte) : (s.pokeByte a v).trace = s.trace := rfl

@[simp] theorem State.pokeByte_awaitingLoad (s : State) (a : PhysAddr) (v : Byte) :
    (s.pokeByte a v).awaitingLoad = s.awaitingLoad :=
  rfl

@[simp] theorem State.pokeByte_size (s : State) (a : PhysAddr) (v : Byte) :
    (s.pokeByte a v).ctx.size = s.ctx.size :=
  rfl

@[simp] theorem State.pokeByte_changedRegs (s : State) (a : PhysAddr) (v : Byte) :
    (s.pokeByte a v).ctx.changedRegs = s.ctx.changedRegs :=
  rfl

@[simp] theorem State.pokeByte_changedFlags (s : State) (a : PhysAddr) (v : Byte) :
    (s.pokeByte a v).ctx.changedFlags = s.ctx.changedFlags :=
  rfl

@[simp] theorem State.pokeByte_result (s : State) (a : PhysAddr) (v : Byte) :
    (s.pokeByte a v).ctx.result = s.ctx.result :=
  rfl

/-! A logged byte read -/

@[simp] theorem State.readByte_reg (s : State) (a : PhysAddr) (q : Reg) : (s.readByte a).reg q = s.reg q := rfl

@[simp] theorem State.readByte_flag (s : State) (a : PhysAddr) (g : Flag) : (s.readByte a).flag g = s.flag g := rfl

@[simp] theorem State.readByte_halted (s : State) (a : PhysAddr) : (s.readByte a).cpu.halted = s.cpu.halted := rfl

@[simp] theorem State.readByte_cycles (s : State) (a : PhysAddr) : (s.readByte a).cpu.cycles = s.cpu.cycles := rfl

@[simp] theorem State.readByte_mem (s : State) (a : PhysAddr) : (s.readByte a).mem = s.mem := rfl

@[simp] theorem State.readByte_peekByte (s : State) (a : PhysAddr) (c : PhysAddr) :
    (s.readByte a).peekByte c = s.peekByte c :=
  rfl

@[simp] theorem State.readByte_accessLog (s : State) (a : PhysAddr) :
    (s.readByte a).accessLog = pushAccess s.accessLog (readEntry s a) :=
  rfl

@[simp] theorem State.readByte_istore (s : State) (a : PhysAddr) : (s.readByte a).istore = s.istore := rfl

@[simp] theorem State.readByte_program (s : State) (a : PhysAddr) : (s.readByte a).program = s.program := rfl

@[simp] theorem State.readByte_trace (s : State) (a : PhysAddr) : (s.readByte a).trace = s.trace := rfl

@[simp] theorem State.readByte_awaitingLoad (s : State) (a : PhysAddr) :
    (s.readByte a).awaitingLoad = s.awaitingLoad :=
  rfl

@[simp] theorem State.readByte_size (s : State) (a : PhysAddr) : (s.readByte a).ctx.size = s.ctx.size := rfl

@[simp] theorem State.readByte_changedRegs (s : State) (a : PhysAddr) :
    (s.readByte a).ctx.changedRegs = s.ctx.changedRegs :=
  rfl

@[simp] theorem State.readByte_changedFlags (s : State) (a : PhysAddr) :
    (s.readByte a).ctx.changedFlags = s.ctx.changedFlags :=
  rfl

@[simp] theorem State.readByte_result (s : State) (a : PhysAddr) : (s.readByte a).ctx.result = s.ctx.result := rfl

/-! A logged byte write -/

@[simp] theorem State.writeByte_reg (s : State) (a : PhysAddr) (v : Byte) (q : Reg) :
    (s.writeByte a v).reg q = s.reg q :=
  rfl

@[simp] theorem State.writeByte_flag (s : State) (a : PhysAddr) (v : Byte) (g : Flag) :
    (s.writeByte a v).flag g = s.flag g :=
  rfl

@[simp] theorem State.writeByte_halted (s : State) (a : PhysAddr) (v : Byte) :
    (s.writeByte a v).cpu.halted = s.cpu.halted :=
  rfl

@[simp] theorem State.writeByte_cycles (s : State) (a : PhysAddr) (v : Byte) :
    (s.writeByte a v).cpu.cycles = s.cpu.cycles :=
  rfl

@[simp] theorem State.writeByte_mem (s : State) (a : PhysAddr) (v : Byte) :
    (s.writeByte a v).mem = Memory.write s.mem a v :=
  rfl

@[simp] theorem State.writeByte_accessLog (s : State) (a : PhysAddr) (v : Byte) :
    (s.writeByte a v).accessLog = pushAccess s.accessLog (writeEntry a v) :=
  rfl

@[simp] theorem State.writeByte_istore (s : State) (a : PhysAddr) (v : Byte) :
    (s.writeByte a v).istore = s.istore :=
  rfl

@[simp] theorem State.writeByte_program (s : State) (a : PhysAddr) (v : Byte) :
    (s.writeByte a v).program = s.program :=
  rfl

@[simp] theorem State.writeByte_trace (s : State) (a : PhysAddr) (v : Byte) : (s.writeByte a v).trace = s.trace := rfl

@[simp] theorem State.writeByte_awaitingLoad (s : State) (a : PhysAddr) (v : Byte) :
    (s.writeByte a v).awaitingLoad = s.awaitingLoad :=
  rfl

@[simp] theorem State.writeByte_size (s : State) (a : PhysAddr) (v : Byte) :
    (s.writeByte a v).ctx.size = s.ctx.size :=
  rfl

@[simp] theorem State.writeByte_changedRegs (s : State) (a : PhysAddr) (v : Byte) :
    (s.writeByte a v).ctx.changedRegs = s.ctx.changedRegs :=
  rfl

@[simp] theorem State.writeByte_changedFlags (s : State) (a : PhysAddr) (v : Byte) :
    (s.writeByte a v).ctx.changedFlags = s.ctx.changedFlags :=
  rfl

@[simp] theorem State.writeByte_result (s : State) (a : PhysAddr) (v : Byte) :
    (s.writeByte a v).ctx.result = s.ctx.result :=
  rfl

/-! A logged word read -/

@[simp] theorem State.readWord_reg (s : State) (a : PhysAddr) (q : Reg) : (s.readWord a).reg q = s.reg q := rfl

@[simp] theorem State.readWord_flag (s : State) (a : PhysAddr) (g : Flag) : (s.readWord a).flag g = s.flag g := rfl

@[simp] theorem State.readWord_halted (s : State) (a : PhysAddr) : (s.readWord a).cpu.halted = s.cpu.halted := rfl

@[simp] theorem State.readWord_cycles (s : State) (a : PhysAddr) : (s.readWord a).cpu.cycles = s.cpu.cycles := rfl

@[simp] theorem State.readWord_mem (s : State) (a : PhysAddr) : (s.readWord a).mem = s.mem := rfl

@[simp] theorem State.readWord_peekByte (s : State) (a : PhysAddr) (c : PhysAddr) :
    (s.readWord a).peekByte c = s.peekByte c :=
  rfl

@[simp] theorem State.readWord_accessLog (s : State) (a : PhysAddr) :
    (s.readWord a).accessLog = pushAccess (pushAccess s.accessLog (readEntry s a)) (readEntry s (a + 1)) :=
  rfl

@[simp] theorem State.readWord_istore (s : State) (a : PhysAddr) : (s.readWord a).istore = s.istore := rfl

@[simp] theorem State.readWord_program (s : State) (a : PhysAddr) : (s.readWord a).program = s.program := rfl

@[simp] theorem State.readWord_trace (s : State) (a : PhysAddr) : (s.readWord a).trace = s.trace := rfl

@[simp] theorem State.readWord_awaitingLoad (s : State) (a : PhysAddr) :
    (s.readWord a).awaitingLoad = s.awaitingLoad :=
  rfl

@[simp] theorem State.readWord_size (s : State) (a : PhysAddr) : (s.readWord a).ctx.size = s.ctx.size := rfl

@[simp] theorem State.readWord_changedRegs (s : State) (a : PhysAddr) :
    (s.readWord a).ctx.changedRegs = s.ctx.changedRegs :=
  rfl

@[simp] theorem State.readWord_changedFlags (s : State) (a : PhysAddr) :
    (s.readWord a).ctx.changedFlags = s.ctx.changedFlags :=
  rfl

@[simp] theorem State.readWord_result (s : State) (a : PhysAddr) : (s.readWord a).ctx.result = s.ctx.result := rfl

/-! A logged word write -/

@[simp] theorem State.writeWord_reg (s : State) (a : PhysAddr) (v : Word) (q : Reg) :
    (s.writeWord a v).reg q = s.reg q :=
  rfl

@[simp] theorem State.writeWord_flag (s : State) (a : PhysAddr) (v : Word) (g : Flag) :
    (s.writeWord a v).flag g = s.flag g :=
  rfl

@[simp] theorem State.writeWord_halted (s : State) (a : PhysAddr) (v : Word) :
    (s.writeWord a v).cpu.halted = s.cpu.halted :=
  rfl

@[simp] theorem State.writeWord_cycles (s : State) (a : PhysAddr) (v : Word) :
    (s.writeWord a v).cpu.cycles = s.cpu.cycles :=
  rfl

@[simp] theorem State.writeWord_mem (s : State) (a : PhysAddr) (v : Word) :
    (s.writeWord a v).mem = Memory.write (Memory.write s.mem a (lowByte v)) (a + 1) (highByte v) :=
  rfl

@[simp] theorem State.writeWord_accessLog (s : State) (a : PhysAddr) (v : Word) :
    (s.writeWord a v).accessLog = pushAccess (pushAccess s.accessLog (writeEntry a (lowByte v))) (writeEntry (a + 1) (highByte v)) :=
  rfl

@[simp] theorem State.writeWord_istore (s : State) (a : PhysAddr) (v : Word) :
    (s.writeWord a v).istore = s.istore :=
  rfl

@[simp] theorem State.writeWord_program (s : State) (a : PhysAddr) (v : Word) :
    (s.writeWord a v).program = s.program :=
  rfl

@[simp] theorem State.writeWord_trace (s : State) (a : PhysAddr) (v : Word) : (s.writeWord a v).trace = s.trace := rfl

@[simp] theorem State.writeWord_awaitingLoad (s : State) (a : PhysAddr) (v : Word) :
    (s.writeWord a v).awaitingLoad = s.awaitingLoad :=
  rfl

@[simp] theorem State.writeWord_size (s : State) (a : PhysAddr) (v : Word) :
    (s.writeWord a v).ctx.size = s.ctx.size :=
  rfl

@[simp] theorem State.writeWord_changedRegs (s : State) (a : PhysAddr) (v : Word) :
    (s.writeWord a v).ctx.changedRegs = s.ctx.changedRegs :=
  rfl

@[simp] theorem State.writeWord_changedFlags (s : State) (a : PhysAddr) (v : Word) :
    (s.writeWord a v).ctx.changedFlags = s.ctx.changedFlags :=
  rfl

@[simp] theorem State.writeWord_result (s : State) (a : PhysAddr) (v : Word) :
    (s.writeWord a v).ctx.result = s.ctx.result :=
  rfl

end Sys2Proof.Machine
end

