-- ==== Sys2Proof/Laws/Memory.lean ====
section
/-! SUPPORT. The laws of tables and of memory: what a read gives after a write, that every operation keeps the canonical
form, and that equal contents are equal data (20_memory.md R50, R55 to R60, R67). -/

namespace Sys2Proof.Machine

/-! Tables -/

theorem Table.above_iff {α : Type} (a : Nat) (t : List (Nat × α)) :
    Table.above a t = true ↔ ∀ e ∈ t, a < e.1 := by
  simp [Table.above]

theorem Table.rising_cons {α : Type} (a : Nat) (v : α) (t : List (Nat × α)) :
    Table.rising ((a, v) :: t) = true ↔ (∀ e ∈ t, a < e.1) ∧ Table.rising t = true := by
  simp [Table.rising, Table.above]

theorem Table.inRange_iff {α : Type} (t : List (Nat × α)) :
    Table.inRange t = true ↔ ∀ e ∈ t, e.1 < 0x100000 := by
  simp [Table.inRange]

theorem Table.mem_of_lookup {α : Type} {a : Nat} {v : α} {t : List (Nat × α)} (h : Table.lookup a t = some v) :
    (a, v) ∈ t := by
  induction t with
  | nil => simp [Table.lookup] at h
  | cons e t ih =>
    obtain ⟨b, w⟩ := e
    simp only [Table.lookup] at h
    split at h
    · simp_all
    · exact List.mem_cons_of_mem _ (ih h)

theorem Table.lookup_of_above {α : Type} {a : Nat} {t : List (Nat × α)} (h : ∀ e ∈ t, a < e.1) :
    Table.lookup a t = none := by
  induction t with
  | nil => rfl
  | cons e t ih =>
    obtain ⟨b, w⟩ := e
    have hb : a < b := h (b, w) (by simp)
    simp only [Table.lookup, if_neg (Nat.ne_of_lt hb)]
    exact ih fun e he => h e (List.mem_cons_of_mem _ he)

theorem Table.mem_insert {α : Type} {a : Nat} {v : α} {t : List (Nat × α)} {e : Nat × α}
    (h : e ∈ Table.insert a v t) : e = (a, v) ∨ e ∈ t := by
  induction t with
  | nil => simpa [Table.insert] using h
  | cons x t ih =>
    obtain ⟨b, w⟩ := x
    simp only [Table.insert] at h
    split at h
    · simpa using h
    · split at h
      · rcases List.mem_cons.1 h with h | h
        · exact .inl h
        · exact .inr (List.mem_cons_of_mem _ h)
      · rcases List.mem_cons.1 h with h | h
        · exact .inr (by simp [h])
        · exact (ih h).imp_right (List.mem_cons_of_mem _)

theorem Table.mem_erase {α : Type} {a : Nat} {t : List (Nat × α)} {e : Nat × α} (h : e ∈ Table.erase a t) :
    e ∈ t := by
  induction t with
  | nil => simp [Table.erase] at h
  | cons x t ih =>
    obtain ⟨b, w⟩ := x
    simp only [Table.erase] at h
    split at h
    · exact List.mem_cons_of_mem _ (ih h)
    · rcases List.mem_cons.1 h with h | h
      · simp [h]
      · exact List.mem_cons_of_mem _ (ih h)

theorem Table.rising_insert {α : Type} {a : Nat} {v : α} {t : List (Nat × α)} (h : Table.rising t = true) :
    Table.rising (Table.insert a v t) = true := by
  induction t with
  | nil => rfl
  | cons x t ih =>
    obtain ⟨b, w⟩ := x
    obtain ⟨hb, ht⟩ := (Table.rising_cons b w t).1 h
    simp only [Table.insert]
    split
    · rename_i hab
      refine (Table.rising_cons _ _ _).2 ⟨fun e he => ?_, h⟩
      rcases List.mem_cons.1 he with rfl | he
      · exact hab
      · exact hab.trans (hb e he)
    · split
      · subst_vars
        exact (Table.rising_cons _ _ _).2 ⟨hb, ht⟩
      · refine (Table.rising_cons _ _ _).2 ⟨fun e he => ?_, ih ht⟩
        rcases Table.mem_insert he with rfl | he
        · simp only at *; omega
        · exact hb e he

theorem Table.rising_erase {α : Type} {a : Nat} {t : List (Nat × α)} (h : Table.rising t = true) :
    Table.rising (Table.erase a t) = true := by
  induction t with
  | nil => rfl
  | cons x t ih =>
    obtain ⟨b, w⟩ := x
    obtain ⟨hb, ht⟩ := (Table.rising_cons b w t).1 h
    simp only [Table.erase]
    split
    · exact ih ht
    · exact (Table.rising_cons _ _ _).2 ⟨fun e he => hb e (Table.mem_erase he), ih ht⟩

/-- A read of a table after a write of it. -/
theorem Table.lookup_insert {α : Type} {a b : Nat} {v : α} {t : List (Nat × α)} :
    Table.lookup b (Table.insert a v t) = if b = a then some v else Table.lookup b t := by
  induction t with
  | nil => simp [Table.insert, Table.lookup]
  | cons x t ih =>
    obtain ⟨c, w⟩ := x
    simp only [Table.insert]
    split
    · simp [Table.lookup]
    · split
      · subst_vars
        simp only [Table.lookup]
        split <;> simp_all
      · simp only [Table.lookup, ih]
        split
        · subst_vars
          rw [if_neg (by omega)]
        · rfl

/-- A read of a table after the entries at an address are taken out. -/
theorem Table.lookup_erase {α : Type} {a b : Nat} {t : List (Nat × α)} :
    Table.lookup b (Table.erase a t) = if b = a then none else Table.lookup b t := by
  induction t with
  | nil => simp [Table.erase, Table.lookup]
  | cons x t ih =>
    obtain ⟨c, w⟩ := x
    simp only [Table.erase]
    split
    · subst_vars
      rw [ih]
      by_cases hb : b = c <;> simp [Table.lookup, hb]
    · simp only [Table.lookup, ih]
      split
      · subst_vars
        rw [if_neg (by omega)]
      · rfl

/-- Two rising tables with equal lookups are equal. -/
theorem Table.ext_of_lookup {α : Type} {t u : List (Nat × α)} (ht : Table.rising t = true) (hu : Table.rising u = true)
    (h : ∀ a, Table.lookup a t = Table.lookup a u) : t = u := by
  induction t generalizing u with
  | nil =>
    cases u with
    | nil => rfl
    | cons x u =>
      obtain ⟨c, w⟩ := x
      have := h c
      simp [Table.lookup] at this
  | cons x t ih =>
    obtain ⟨b, v⟩ := x
    obtain ⟨hb, ht'⟩ := (Table.rising_cons b v t).1 ht
    cases u with
    | nil =>
      have := h b
      simp [Table.lookup] at this
    | cons y u =>
      obtain ⟨c, w⟩ := y
      obtain ⟨hc, hu'⟩ := (Table.rising_cons c w u).1 hu
      have hbc : b = c := by
        rcases Nat.lt_trichotomy b c with hlt | heq | hgt
        · have := h b
          simp only [Table.lookup, if_true, if_neg (Nat.ne_of_lt hlt)] at this
          rw [Table.lookup_of_above fun e he => hlt.trans (hc e he)] at this
          cases this
        · exact heq
        · have := h c
          simp only [Table.lookup, if_true, if_neg (Nat.ne_of_lt hgt)] at this
          rw [Table.lookup_of_above fun e he => hgt.trans (hb e he)] at this
          cases this
      subst hbc
      have hvw : v = w := by
        have := h b
        simpa [Table.lookup] using this
      subst hvw
      refine congrArg _ (ih ht' hu' fun a => ?_)
      by_cases hab : a = b
      · subst hab
        rw [Table.lookup_of_above hb, Table.lookup_of_above hc]
      · have := h a
        simpa [Table.lookup, hab] using this

/-! Memory -/

theorem Memory.wf_iff (m : List Host.Cell) :
    Memory.wf m = true ↔ Table.rising m = true ∧ (∀ e ∈ m, e.1 < 0x100000) ∧ ∀ e ∈ m, e.2 ≠ 0 := by
  simp [Memory.wf, Table.inRange, and_assoc]

/-- Writing a byte keeps the canonical form. -/
theorem Memory.wf_write {m : List Host.Cell} (h : Memory.wf m = true) (a : PhysAddr) (v : Byte) :
    Memory.wf (Memory.write m a v) = true := by
  obtain ⟨hr, hb, hz⟩ := (Memory.wf_iff m).1 h
  refine (Memory.wf_iff _).2 ?_
  unfold Memory.write
  split
  · exact ⟨Table.rising_erase hr, fun e he => hb e (Table.mem_erase he), fun e he => hz e (Table.mem_erase he)⟩
  · rename_i hv
    refine ⟨Table.rising_insert hr, fun e he => ?_, fun e he => ?_⟩
    · rcases Table.mem_insert he with rfl | he
      · exact a.isLt
      · exact hb e he
    · rcases Table.mem_insert he with rfl | he
      · exact hv
      · exact hz e he

/-- A read after a write: the byte written at its address, the byte before at every other (R55, R56, R67). -/
theorem Memory.read_write (m : List Host.Cell) (a b : PhysAddr) (v : Byte) :
    Memory.read (Memory.write m a v) b = if b = a then v else Memory.read m b := by
  have hab : (b.toNat = a.toNat) = (b = a) := propext BitVec.toNat_inj
  unfold Memory.write Memory.read
  split
  · rename_i hv
    rw [Table.lookup_erase]
    simp only [hab]
    split <;> simp [hv]
  · rw [Table.lookup_insert]
    simp only [hab]
    split <;> simp

/-- Memories in canonical form with the same bytes are the same data. -/
theorem Memory.ext_of_read {m n : List Host.Cell} (hm : Memory.wf m = true) (hn : Memory.wf n = true)
    (h : ∀ a, Memory.read m a = Memory.read n a) : m = n := by
  obtain ⟨hmr, hmb, hmz⟩ := (Memory.wf_iff m).1 hm
  obtain ⟨hnr, hnb, hnz⟩ := (Memory.wf_iff n).1 hn
  refine Table.ext_of_lookup hmr hnr fun a => ?_
  by_cases ha : a < 0x100000
  · have hr := h (BitVec.ofNat 20 a)
    have hto : (BitVec.ofNat 20 a).toNat = a := by simp [BitVec.toNat_ofNat]; omega
    simp only [Memory.read, hto] at hr
    cases h1 : Table.lookup a m with
    | none =>
      cases h2 : Table.lookup a n with
      | none => rfl
      | some w =>
        rw [h1, h2] at hr
        exact absurd hr.symm (hnz _ (Table.mem_of_lookup h2))
    | some v =>
      cases h2 : Table.lookup a n with
      | none =>
        rw [h1, h2] at hr
        exact absurd hr (hmz _ (Table.mem_of_lookup h1))
      | some w =>
        rw [h1, h2] at hr
        simpa using hr
  · have none_of (t : List Host.Cell) (hb : ∀ e ∈ t, e.1 < 0x100000) : Table.lookup a t = none := by
      cases hl : Table.lookup a t with
      | none => rfl
      | some v => exact absurd (hb _ (Table.mem_of_lookup hl)) ha
    rw [none_of m hmb, none_of n hnb]

/-! Bytes and words -/

theorem wordOf_high_low (v : Word) : wordOf (highByte v) (lowByte v) = v := by
  simp only [wordOf, highByte, lowByte]
  ext i hi
  simp only [BitVec.getElem_append, BitVec.getElem_extractLsb']
  split
  · simp [BitVec.getLsbD_eq_getElem (show i < 16 by omega)]
  · have : 8 + (i - 8) = i := by omega
    simp [this, BitVec.getLsbD_eq_getElem (show i < 16 by omega)]

theorem lowByte_wordOf (hi lo : Byte) : lowByte (wordOf hi lo) = lo := by
  simp only [wordOf, lowByte]
  ext i h
  simp only [BitVec.getElem_extractLsb', BitVec.getLsbD_append]
  simp [h]

theorem highByte_wordOf (hi lo : Byte) : highByte (wordOf hi lo) = hi := by
  simp only [wordOf, highByte]
  ext i h
  simp only [BitVec.getElem_extractLsb', BitVec.getLsbD_append]
  simp [BitVec.getLsbD_eq_getElem h]

theorem wordOf_toNat (hi lo : Byte) : (wordOf hi lo).toNat = hi.toNat * 256 + lo.toNat := by
  have := lo.isLt
  simp only [wordOf, BitVec.toNat_append, Nat.shiftLeft_eq]
  rw [Nat.mul_comm, ← Nat.two_pow_add_eq_or_of_lt (by omega)]

theorem succ_ne_self (a : PhysAddr) : a + 1 ≠ a := by
  intro h
  have := congrArg BitVec.toNat h
  have hlt := a.isLt
  simp [BitVec.toNat_add] at this
  omega

/-! Reads of bytes after writes of the state's memory -/

@[simp] theorem State.pokeByte_peekByte (s : State) (a c : PhysAddr) (v : Byte) :
    (s.pokeByte a v).peekByte c = if c = a then v else s.peekByte c :=
  Memory.read_write s.mem a c v

@[simp] theorem State.writeByte_peekByte (s : State) (a c : PhysAddr) (v : Byte) :
    (s.writeByte a v).peekByte c = if c = a then v else s.peekByte c :=
  Memory.read_write s.mem a c v

@[simp] theorem State.writeWord_peekByte (s : State) (a c : PhysAddr) (v : Word) :
    (s.writeWord a v).peekByte c =
      if c = a + 1 then highByte v else if c = a then lowByte v else s.peekByte c := by
  simp only [State.peekByte, State.writeWord_mem, Memory.read_write]

/-- A word read after a word write of the same address gives the word written (R57, R58). -/
theorem State.writeWord_peekWord (s : State) (a : PhysAddr) (v : Word) : (s.writeWord a v).peekWord a = v := by
  simp only [State.peekWord, State.writeWord_peekByte, if_true, if_neg (succ_ne_self a).symm]
  exact wordOf_high_low v

/-! The access log (R60) -/

theorem pushAccess_of_short {log : List Access} {e : Access} (h : log.length < 1000) :
    pushAccess log e = log ++ [e] := by
  simp [pushAccess, Config.accessLogCapacity]; omega

theorem pushAccess_length_le {log : List Access} {e : Access} (h : log.length ≤ 1000) :
    (pushAccess log e).length ≤ 1000 := by
  unfold pushAccess Config.accessLogCapacity
  split
  · simp; omega
  · omega

end Sys2Proof.Machine
end

