-- ==== Sys2Proof/Laws/Ops.lean ====
section
/-! SUPPORT. What each shared operation of the handlers leaves in each field of the state: cited, never unfolded. -/

namespace Sys2Proof.Machine

theorem mem_addName {α : Type} [DecidableEq α] (all : List α) (x y : α) (names : List α) :
    y ∈ addName all x names ↔ y ∈ all ∧ (y = x ∨ y ∈ names) := by
  simp [addName]

theorem Reg.mem_all (r : Reg) : r ∈ Reg.all := by cases r <;> decide

theorem Flag.mem_all (f : Flag) : f ∈ Flag.all := by cases f <;> decide

@[simp] theorem mem_addReg (r q : Reg) (names : List Reg) : q ∈ addName Reg.all r names ↔ q = r ∨ q ∈ names := by
  simp [mem_addName, Reg.mem_all]

@[simp] theorem mem_addFlag (f g : Flag) (names : List Flag) : g ∈ addName Flag.all f names ↔ g = f ∨ g ∈ names := by
  simp [mem_addName, Flag.mem_all]

/-- No operand register is IP (R21). -/
@[simp] theorem OpReg.toReg_ne_ip (r : OpReg) : r.toReg ≠ .ip := by cases r <;> decide

@[simp] theorem OpReg.ip_ne_toReg (r : OpReg) : Reg.ip ≠ r.toReg := by cases r <;> decide

/-- The twelve operand registers name twelve distinct cells (R21). -/
@[simp] theorem OpReg.toReg_inj (r q : OpReg) : r.toReg = q.toReg ↔ r = q := by
  constructor
  · cases r <;> cases q <;> decide
  · rintro rfl; rfl

@[simp] theorem OpReg.toReg_toOpReg (r : OpReg) : r.toReg.toOpReg = some r := by cases r <;> rfl

/-! ADD (R151) -/

@[simp] theorem addTo_reg (s : State) (d : OpReg) (b : Word) (q : Reg) :
    (addTo d b s).reg q =
      if q = .ip then s.returnOffset else if q = d.toReg then w16 ((s.reg d.toReg).toNat + b.toNat : Nat) else s.reg q :=
  by simp [addTo, State.returnOffset]

@[simp] theorem addTo_flag (s : State) (d : OpReg) (b : Word) (g : Flag) :
    (addTo d b s).flag g =
      if g = .sf then signFlag (w16 ((s.reg d.toReg).toNat + b.toNat : Nat)) else if g = .zf then zeroFlag (w16 ((s.reg d.toReg).toNat + b.toNat : Nat)) else if g = .cf then addCarry (s.reg d.toReg) b else s.flag g :=
  by simp [addTo]

@[simp] theorem addTo_halted (s : State) (d : OpReg) (b : Word) : (addTo d b s).cpu.halted = s.cpu.halted := rfl

@[simp] theorem addTo_cycles (s : State) (d : OpReg) (b : Word) : (addTo d b s).cpu.cycles = s.cpu.cycles := rfl

@[simp] theorem addTo_mem (s : State) (d : OpReg) (b : Word) : (addTo d b s).mem = s.mem := rfl

@[simp] theorem addTo_peekByte (s : State) (d : OpReg) (b : Word) (c : PhysAddr) :
    (addTo d b s).peekByte c = s.peekByte c :=
  rfl

@[simp] theorem addTo_accessLog (s : State) (d : OpReg) (b : Word) : (addTo d b s).accessLog = s.accessLog := rfl

@[simp] theorem addTo_istore (s : State) (d : OpReg) (b : Word) : (addTo d b s).istore = s.istore := rfl

@[simp] theorem addTo_program (s : State) (d : OpReg) (b : Word) : (addTo d b s).program = s.program := rfl

@[simp] theorem addTo_trace (s : State) (d : OpReg) (b : Word) : (addTo d b s).trace = s.trace := rfl

@[simp] theorem addTo_awaitingLoad (s : State) (d : OpReg) (b : Word) :
    (addTo d b s).awaitingLoad = s.awaitingLoad :=
  rfl

@[simp] theorem addTo_size (s : State) (d : OpReg) (b : Word) : (addTo d b s).ctx.size = s.ctx.size := rfl

@[simp] theorem addTo_changedRegs (s : State) (d : OpReg) (b : Word) :
    (addTo d b s).ctx.changedRegs = addName Reg.all d.toReg s.ctx.changedRegs :=
  rfl

@[simp] theorem addTo_changedFlags (s : State) (d : OpReg) (b : Word) :
    (addTo d b s).ctx.changedFlags =
      addName Flag.all .sf (addName Flag.all .zf (addName Flag.all .cf s.ctx.changedFlags)) :=
  rfl

@[simp] theorem addTo_result (s : State) (d : OpReg) (b : Word) : (addTo d b s).ctx.result = s.ctx.result := rfl

/-! SUB (R152) -/

@[simp] theorem subFrom_reg (s : State) (d : OpReg) (b : Word) (q : Reg) :
    (subFrom d b s).reg q =
      if q = .ip then s.returnOffset else if q = d.toReg then w16 ((s.reg d.toReg).toNat - b.toNat : Int) else s.reg q :=
  by simp [subFrom, State.returnOffset]

@[simp] theorem subFrom_flag (s : State) (d : OpReg) (b : Word) (g : Flag) :
    (subFrom d b s).flag g =
      if g = .sf then signFlag (w16 ((s.reg d.toReg).toNat - b.toNat : Int)) else if g = .zf then zeroFlag (w16 ((s.reg d.toReg).toNat - b.toNat : Int)) else if g = .cf then subBorrow (s.reg d.toReg) b else s.flag g :=
  by simp [subFrom]

@[simp] theorem subFrom_halted (s : State) (d : OpReg) (b : Word) : (subFrom d b s).cpu.halted = s.cpu.halted := rfl

@[simp] theorem subFrom_cycles (s : State) (d : OpReg) (b : Word) : (subFrom d b s).cpu.cycles = s.cpu.cycles := rfl

@[simp] theorem subFrom_mem (s : State) (d : OpReg) (b : Word) : (subFrom d b s).mem = s.mem := rfl

@[simp] theorem subFrom_peekByte (s : State) (d : OpReg) (b : Word) (c : PhysAddr) :
    (subFrom d b s).peekByte c = s.peekByte c :=
  rfl

@[simp] theorem subFrom_accessLog (s : State) (d : OpReg) (b : Word) : (subFrom d b s).accessLog = s.accessLog := rfl

@[simp] theorem subFrom_istore (s : State) (d : OpReg) (b : Word) : (subFrom d b s).istore = s.istore := rfl

@[simp] theorem subFrom_program (s : State) (d : OpReg) (b : Word) : (subFrom d b s).program = s.program := rfl

@[simp] theorem subFrom_trace (s : State) (d : OpReg) (b : Word) : (subFrom d b s).trace = s.trace := rfl

@[simp] theorem subFrom_awaitingLoad (s : State) (d : OpReg) (b : Word) :
    (subFrom d b s).awaitingLoad = s.awaitingLoad :=
  rfl

@[simp] theorem subFrom_size (s : State) (d : OpReg) (b : Word) : (subFrom d b s).ctx.size = s.ctx.size := rfl

@[simp] theorem subFrom_changedRegs (s : State) (d : OpReg) (b : Word) :
    (subFrom d b s).ctx.changedRegs = addName Reg.all d.toReg s.ctx.changedRegs :=
  rfl

@[simp] theorem subFrom_changedFlags (s : State) (d : OpReg) (b : Word) :
    (subFrom d b s).ctx.changedFlags =
      addName Flag.all .sf (addName Flag.all .zf (addName Flag.all .cf s.ctx.changedFlags)) :=
  rfl

@[simp] theorem subFrom_result (s : State) (d : OpReg) (b : Word) : (subFrom d b s).ctx.result = s.ctx.result := rfl

/-! INC, DEC, NEG (R153 to R155) -/

@[simp] theorem unaryWith_reg (s : State) (d : OpReg) (v : Word) (q : Reg) :
    (unaryWith d v s).reg q = if q = .ip then s.returnOffset else if q = d.toReg then v else s.reg q :=
  by simp [unaryWith, State.returnOffset]

@[simp] theorem unaryWith_flag (s : State) (d : OpReg) (v : Word) (g : Flag) :
    (unaryWith d v s).flag g = if g = .sf then signFlag (v) else if g = .zf then zeroFlag (v) else s.flag g :=
  by simp [unaryWith]

@[simp] theorem unaryWith_halted (s : State) (d : OpReg) (v : Word) :
    (unaryWith d v s).cpu.halted = s.cpu.halted :=
  rfl

@[simp] theorem unaryWith_cycles (s : State) (d : OpReg) (v : Word) :
    (unaryWith d v s).cpu.cycles = s.cpu.cycles :=
  rfl

@[simp] theorem unaryWith_mem (s : State) (d : OpReg) (v : Word) : (unaryWith d v s).mem = s.mem := rfl

@[simp] theorem unaryWith_peekByte (s : State) (d : OpReg) (v : Word) (c : PhysAddr) :
    (unaryWith d v s).peekByte c = s.peekByte c :=
  rfl

@[simp] theorem unaryWith_accessLog (s : State) (d : OpReg) (v : Word) :
    (unaryWith d v s).accessLog = s.accessLog :=
  rfl

@[simp] theorem unaryWith_istore (s : State) (d : OpReg) (v : Word) : (unaryWith d v s).istore = s.istore := rfl

@[simp] theorem unaryWith_program (s : State) (d : OpReg) (v : Word) : (unaryWith d v s).program = s.program := rfl

@[simp] theorem unaryWith_trace (s : State) (d : OpReg) (v : Word) : (unaryWith d v s).trace = s.trace := rfl

@[simp] theorem unaryWith_awaitingLoad (s : State) (d : OpReg) (v : Word) :
    (unaryWith d v s).awaitingLoad = s.awaitingLoad :=
  rfl

@[simp] theorem unaryWith_size (s : State) (d : OpReg) (v : Word) : (unaryWith d v s).ctx.size = s.ctx.size := rfl

@[simp] theorem unaryWith_changedRegs (s : State) (d : OpReg) (v : Word) :
    (unaryWith d v s).ctx.changedRegs = addName Reg.all d.toReg s.ctx.changedRegs :=
  rfl

@[simp] theorem unaryWith_changedFlags (s : State) (d : OpReg) (v : Word) :
    (unaryWith d v s).ctx.changedFlags = addName Flag.all .sf (addName Flag.all .zf s.ctx.changedFlags) :=
  rfl

@[simp] theorem unaryWith_result (s : State) (d : OpReg) (v : Word) :
    (unaryWith d v s).ctx.result = s.ctx.result :=
  rfl

/-! AND, OR, XOR (R171 to R173) -/

@[simp] theorem logicWith_reg (s : State) (d : OpReg) (v : Word) (q : Reg) :
    (logicWith d v s).reg q = if q = .ip then s.returnOffset else if q = d.toReg then v else s.reg q :=
  by simp [logicWith, State.returnOffset]

@[simp] theorem logicWith_flag (s : State) (d : OpReg) (v : Word) (g : Flag) :
    (logicWith d v s).flag g =
      if g = .sf then signFlag (v) else if g = .zf then zeroFlag (v) else if g = .cf then false else s.flag g :=
  by simp [logicWith]

@[simp] theorem logicWith_halted (s : State) (d : OpReg) (v : Word) :
    (logicWith d v s).cpu.halted = s.cpu.halted :=
  rfl

@[simp] theorem logicWith_cycles (s : State) (d : OpReg) (v : Word) :
    (logicWith d v s).cpu.cycles = s.cpu.cycles :=
  rfl

@[simp] theorem logicWith_mem (s : State) (d : OpReg) (v : Word) : (logicWith d v s).mem = s.mem := rfl

@[simp] theorem logicWith_peekByte (s : State) (d : OpReg) (v : Word) (c : PhysAddr) :
    (logicWith d v s).peekByte c = s.peekByte c :=
  rfl

@[simp] theorem logicWith_accessLog (s : State) (d : OpReg) (v : Word) :
    (logicWith d v s).accessLog = s.accessLog :=
  rfl

@[simp] theorem logicWith_istore (s : State) (d : OpReg) (v : Word) : (logicWith d v s).istore = s.istore := rfl

@[simp] theorem logicWith_program (s : State) (d : OpReg) (v : Word) : (logicWith d v s).program = s.program := rfl

@[simp] theorem logicWith_trace (s : State) (d : OpReg) (v : Word) : (logicWith d v s).trace = s.trace := rfl

@[simp] theorem logicWith_awaitingLoad (s : State) (d : OpReg) (v : Word) :
    (logicWith d v s).awaitingLoad = s.awaitingLoad :=
  rfl

@[simp] theorem logicWith_size (s : State) (d : OpReg) (v : Word) : (logicWith d v s).ctx.size = s.ctx.size := rfl

@[simp] theorem logicWith_changedRegs (s : State) (d : OpReg) (v : Word) :
    (logicWith d v s).ctx.changedRegs = addName Reg.all d.toReg s.ctx.changedRegs :=
  rfl

@[simp] theorem logicWith_changedFlags (s : State) (d : OpReg) (v : Word) :
    (logicWith d v s).ctx.changedFlags =
      addName Flag.all .sf (addName Flag.all .zf (addName Flag.all .cf s.ctx.changedFlags)) :=
  rfl

@[simp] theorem logicWith_result (s : State) (d : OpReg) (v : Word) :
    (logicWith d v s).ctx.result = s.ctx.result :=
  rfl

/-! CMP (R175) -/

@[simp] theorem compareWith_reg (s : State) (d : OpReg) (b : Word) (q : Reg) :
    (compareWith d b s).reg q = if q = .ip then s.returnOffset else s.reg q :=
  by simp [compareWith, State.returnOffset]

@[simp] theorem compareWith_flag (s : State) (d : OpReg) (b : Word) (g : Flag) :
    (compareWith d b s).flag g =
      if g = .sf then signFlag (w16 ((s.reg d.toReg).toNat - b.toNat : Int)) else if g = .zf then zeroFlag (w16 ((s.reg d.toReg).toNat - b.toNat : Int)) else if g = .cf then subBorrow (s.reg d.toReg) b else s.flag g :=
  by simp [compareWith]

@[simp] theorem compareWith_halted (s : State) (d : OpReg) (b : Word) :
    (compareWith d b s).cpu.halted = s.cpu.halted :=
  rfl

@[simp] theorem compareWith_cycles (s : State) (d : OpReg) (b : Word) :
    (compareWith d b s).cpu.cycles = s.cpu.cycles :=
  rfl

@[simp] theorem compareWith_mem (s : State) (d : OpReg) (b : Word) : (compareWith d b s).mem = s.mem := rfl

@[simp] theorem compareWith_peekByte (s : State) (d : OpReg) (b : Word) (c : PhysAddr) :
    (compareWith d b s).peekByte c = s.peekByte c :=
  rfl

@[simp] theorem compareWith_accessLog (s : State) (d : OpReg) (b : Word) :
    (compareWith d b s).accessLog = s.accessLog :=
  rfl

@[simp] theorem compareWith_istore (s : State) (d : OpReg) (b : Word) : (compareWith d b s).istore = s.istore := rfl

@[simp] theorem compareWith_program (s : State) (d : OpReg) (b : Word) :
    (compareWith d b s).program = s.program :=
  rfl

@[simp] theorem compareWith_trace (s : State) (d : OpReg) (b : Word) : (compareWith d b s).trace = s.trace := rfl

@[simp] theorem compareWith_awaitingLoad (s : State) (d : OpReg) (b : Word) :
    (compareWith d b s).awaitingLoad = s.awaitingLoad :=
  rfl

@[simp] theorem compareWith_size (s : State) (d : OpReg) (b : Word) : (compareWith d b s).ctx.size = s.ctx.size := rfl

@[simp] theorem compareWith_changedRegs (s : State) (d : OpReg) (b : Word) :
    (compareWith d b s).ctx.changedRegs = s.ctx.changedRegs :=
  rfl

@[simp] theorem compareWith_changedFlags (s : State) (d : OpReg) (b : Word) :
    (compareWith d b s).ctx.changedFlags =
      addName Flag.all .sf (addName Flag.all .zf (addName Flag.all .cf s.ctx.changedFlags)) :=
  rfl

@[simp] theorem compareWith_result (s : State) (d : OpReg) (b : Word) :
    (compareWith d b s).ctx.result = s.ctx.result :=
  rfl

/-! MUL (R156) -/

@[simp] theorem mulBy_reg (s : State) (m : Word) (q : Reg) :
    (mulBy m s).reg q = if q = .ip then s.returnOffset else if q = .dx then BitVec.ofNat 16 ((s.reg .ax).toNat * m.toNat / 0x10000) else
      if q = .ax then BitVec.ofNat 16 ((s.reg .ax).toNat * m.toNat) else s.reg q :=
  by simp [mulBy, State.returnOffset]

@[simp] theorem mulBy_flag (s : State) (m : Word) (g : Flag) :
    (mulBy m s).flag g =
      if g = .of ∨ g = .cf then mulHigh (BitVec.ofNat 16 ((s.reg .ax).toNat * m.toNat / 0x10000)) else s.flag g :=
  by cases g <;> simp [mulBy]

@[simp] theorem mulBy_halted (s : State) (m : Word) : (mulBy m s).cpu.halted = s.cpu.halted := rfl

@[simp] theorem mulBy_cycles (s : State) (m : Word) : (mulBy m s).cpu.cycles = s.cpu.cycles := rfl

@[simp] theorem mulBy_mem (s : State) (m : Word) : (mulBy m s).mem = s.mem := rfl

@[simp] theorem mulBy_peekByte (s : State) (m : Word) (c : PhysAddr) : (mulBy m s).peekByte c = s.peekByte c := rfl

@[simp] theorem mulBy_accessLog (s : State) (m : Word) : (mulBy m s).accessLog = s.accessLog := rfl

@[simp] theorem mulBy_istore (s : State) (m : Word) : (mulBy m s).istore = s.istore := rfl

@[simp] theorem mulBy_program (s : State) (m : Word) : (mulBy m s).program = s.program := rfl

@[simp] theorem mulBy_trace (s : State) (m : Word) : (mulBy m s).trace = s.trace := rfl

@[simp] theorem mulBy_awaitingLoad (s : State) (m : Word) : (mulBy m s).awaitingLoad = s.awaitingLoad := rfl

@[simp] theorem mulBy_size (s : State) (m : Word) : (mulBy m s).ctx.size = s.ctx.size := rfl

@[simp] theorem mulBy_changedRegs (s : State) (m : Word) :
    (mulBy m s).ctx.changedRegs = addName Reg.all .dx (addName Reg.all .ax s.ctx.changedRegs) :=
  rfl

@[simp] theorem mulBy_changedFlags (s : State) (m : Word) :
    (mulBy m s).ctx.changedFlags = addName Flag.all .of (addName Flag.all .cf s.ctx.changedFlags) :=
  rfl

@[simp] theorem mulBy_result (s : State) (m : Word) : (mulBy m s).ctx.result = s.ctx.result := rfl

/-! MOV (R211) -/

@[simp] theorem moveTo_reg (s : State) (d : OpReg) (v : Word) (q : Reg) :
    (moveTo d v s).reg q = if q = .ip then s.returnOffset else if q = d.toReg then v else s.reg q :=
  by simp [moveTo, State.returnOffset]

@[simp] theorem moveTo_flag (s : State) (d : OpReg) (v : Word) (g : Flag) : (moveTo d v s).flag g = s.flag g := rfl

@[simp] theorem moveTo_halted (s : State) (d : OpReg) (v : Word) : (moveTo d v s).cpu.halted = s.cpu.halted := rfl

@[simp] theorem moveTo_cycles (s : State) (d : OpReg) (v : Word) : (moveTo d v s).cpu.cycles = s.cpu.cycles := rfl

@[simp] theorem moveTo_mem (s : State) (d : OpReg) (v : Word) : (moveTo d v s).mem = s.mem := rfl

@[simp] theorem moveTo_peekByte (s : State) (d : OpReg) (v : Word) (c : PhysAddr) :
    (moveTo d v s).peekByte c = s.peekByte c :=
  rfl

@[simp] theorem moveTo_accessLog (s : State) (d : OpReg) (v : Word) : (moveTo d v s).accessLog = s.accessLog := rfl

@[simp] theorem moveTo_istore (s : State) (d : OpReg) (v : Word) : (moveTo d v s).istore = s.istore := rfl

@[simp] theorem moveTo_program (s : State) (d : OpReg) (v : Word) : (moveTo d v s).program = s.program := rfl

@[simp] theorem moveTo_trace (s : State) (d : OpReg) (v : Word) : (moveTo d v s).trace = s.trace := rfl

@[simp] theorem moveTo_awaitingLoad (s : State) (d : OpReg) (v : Word) :
    (moveTo d v s).awaitingLoad = s.awaitingLoad :=
  rfl

@[simp] theorem moveTo_size (s : State) (d : OpReg) (v : Word) : (moveTo d v s).ctx.size = s.ctx.size := rfl

@[simp] theorem moveTo_changedRegs (s : State) (d : OpReg) (v : Word) :
    (moveTo d v s).ctx.changedRegs = addName Reg.all d.toReg s.ctx.changedRegs :=
  rfl

@[simp] theorem moveTo_changedFlags (s : State) (d : OpReg) (v : Word) :
    (moveTo d v s).ctx.changedFlags = s.ctx.changedFlags :=
  rfl

@[simp] theorem moveTo_result (s : State) (d : OpReg) (v : Word) : (moveTo d v s).ctx.result = s.ctx.result := rfl

/-! Push16 (R213) -/

@[simp] theorem State.push16_reg (s : State) (v : Word) (q : Reg) :
    (s.push16 v).reg q = if q = .sp then s.reg .sp - 2 else s.reg q :=
  by simp [State.push16]

@[simp] theorem State.push16_flag (s : State) (v : Word) (g : Flag) : (s.push16 v).flag g = s.flag g := rfl

@[simp] theorem State.push16_halted (s : State) (v : Word) : (s.push16 v).cpu.halted = s.cpu.halted := rfl

@[simp] theorem State.push16_cycles (s : State) (v : Word) : (s.push16 v).cpu.cycles = s.cpu.cycles := rfl

@[simp] theorem State.push16_mem (s : State) (v : Word) :
    (s.push16 v).mem = Memory.write (Memory.write s.mem s.pushSlot (lowByte v)) (s.pushSlot + 1) (highByte v) :=
  rfl

@[simp] theorem State.push16_peekByte (s : State) (v : Word) (c : PhysAddr) :
    (s.push16 v).peekByte c =
      if c = s.pushSlot + 1 then highByte v else if c = s.pushSlot then lowByte v else s.peekByte c :=
  State.writeWord_peekByte (s.assign .sp (s.reg .sp - 2)) s.pushSlot c v

@[simp] theorem State.push16_accessLog (s : State) (v : Word) :
    (s.push16 v).accessLog = pushAccess (pushAccess s.accessLog (writeEntry s.pushSlot (lowByte v)))
      (writeEntry (s.pushSlot + 1) (highByte v)) :=
  rfl

@[simp] theorem State.push16_istore (s : State) (v : Word) : (s.push16 v).istore = s.istore := rfl

@[simp] theorem State.push16_program (s : State) (v : Word) : (s.push16 v).program = s.program := rfl

@[simp] theorem State.push16_trace (s : State) (v : Word) : (s.push16 v).trace = s.trace := rfl

@[simp] theorem State.push16_awaitingLoad (s : State) (v : Word) : (s.push16 v).awaitingLoad = s.awaitingLoad := rfl

@[simp] theorem State.push16_size (s : State) (v : Word) : (s.push16 v).ctx.size = s.ctx.size := rfl

@[simp] theorem State.push16_changedRegs (s : State) (v : Word) :
    (s.push16 v).ctx.changedRegs = addName Reg.all .sp s.ctx.changedRegs :=
  rfl

@[simp] theorem State.push16_changedFlags (s : State) (v : Word) :
    (s.push16 v).ctx.changedFlags = s.ctx.changedFlags :=
  rfl

@[simp] theorem State.push16_result (s : State) (v : Word) : (s.push16 v).ctx.result = s.ctx.result := rfl

/-! Pop16 (R214) -/

@[simp] theorem State.pop16_reg (s : State) (q : Reg) :
    (s.pop16).reg q = if q = .sp then s.reg .sp + 2 else s.reg q :=
  by simp [State.pop16]

@[simp] theorem State.pop16_flag (s : State) (g : Flag) : (s.pop16).flag g = s.flag g := rfl

@[simp] theorem State.pop16_halted (s : State) : (s.pop16).cpu.halted = s.cpu.halted := rfl

@[simp] theorem State.pop16_cycles (s : State) : (s.pop16).cpu.cycles = s.cpu.cycles := rfl

@[simp] theorem State.pop16_mem (s : State) : (s.pop16).mem = s.mem := rfl

@[simp] theorem State.pop16_peekByte (s : State) (c : PhysAddr) : (s.pop16).peekByte c = s.peekByte c := rfl

@[simp] theorem State.pop16_accessLog (s : State) :
    (s.pop16).accessLog =
      pushAccess (pushAccess s.accessLog (readEntry s s.stackTop)) (readEntry s (s.stackTop + 1)) :=
  rfl

@[simp] theorem State.pop16_istore (s : State) : (s.pop16).istore = s.istore := rfl

@[simp] theorem State.pop16_program (s : State) : (s.pop16).program = s.program := rfl

@[simp] theorem State.pop16_trace (s : State) : (s.pop16).trace = s.trace := rfl

@[simp] theorem State.pop16_awaitingLoad (s : State) : (s.pop16).awaitingLoad = s.awaitingLoad := rfl

@[simp] theorem State.pop16_size (s : State) : (s.pop16).ctx.size = s.ctx.size := rfl

@[simp] theorem State.pop16_changedRegs (s : State) :
    (s.pop16).ctx.changedRegs = addName Reg.all .sp s.ctx.changedRegs :=
  rfl

@[simp] theorem State.pop16_changedFlags (s : State) : (s.pop16).ctx.changedFlags = s.ctx.changedFlags := rfl

@[simp] theorem State.pop16_result (s : State) : (s.pop16).ctx.result = s.ctx.result := rfl

end Sys2Proof.Machine
end

