-- ==== Sys2Proof/Laws/Decode.lean ====
section
/-! SUPPORT. The two decoders beside their encoders, operand by operand and byte by byte. -/

namespace Sys2Proof

@[simp] theorem decodeOperand_toRaw (o : Operand) : decodeOperand o.toRaw = some o := by
  cases o <;> simp [decodeOperand, Operand.toRaw]

theorem toRaw_of_decodeOperand {o : RawOperand} {x : Operand} (h : decodeOperand o = some x) : x.toRaw = o := by
  cases o with
  | reg r => cases r <;> cases h <;> rfl
  | imm n => cases h; rfl
  | none => cases h; rfl

@[simp] theorem instrOf_operands (i : Instr) : instrOf i.mnemonic i.operands.1 i.operands.2 = some i := by
  cases i <;> rfl

theorem of_instrOf {mn : Mnemonic} {a b : Operand} {i : Instr} (h : instrOf mn a b = some i) :
    i.mnemonic = mn ∧ i.operands = (a, b) := by
  cases mn <;> cases a <;> cases b <;> cases h <;> exact ⟨rfl, rfl⟩

/-- What a record that decodes looks like: its mnemonic and operands are the instruction's. -/
theorem of_decodeRecord {mn : Mnemonic} {a b : RawOperand} {i : Instr} (h : decodeRecord mn a b = .ok i) :
    i.mnemonic = mn ∧ i.operands.1.toRaw = a ∧ i.operands.2.toRaw = b := by
  unfold decodeRecord at h
  split at h
  · rename_i x y hx hy
    split at h
    · rename_i j hj
      cases h
      obtain ⟨h1, h2⟩ := of_instrOf hj
      rw [h2]
      exact ⟨h1, toRaw_of_decodeOperand hx, toRaw_of_decodeOperand hy⟩
    · cases h
  · cases h

/-- An admitted record has the mnemonic of its instruction, and an image of 1 to 3 bytes. -/
theorem of_record_decode {r : Record} {i : Instr} (h : r.decode = .ok i) : r.mn = i.mnemonic ∧ r.sizeOk = true := by
  unfold Record.decode at h
  split at h
  · exact ⟨(of_decodeRecord h).1.symm, ‹_›⟩
  · cases h

theorem size_image (i : Instr) : (imageBytes i).length = 1 ∨ (imageBytes i).length = 2 ∨ (imageBytes i).length = 3 := by
  cases i <;> simp [imageBytes]

/-- The image of an instruction that one opcode byte was read as. -/
theorem image_of_decodeImage1 {b : Byte} {i : Instr} (h : decodeImage1 b = some i) : imageBytes i = [b] := by
  have all : ∀ c : Byte, ∀ j ∈ decodeImage1 c, imageBytes j = [c] := by decide +kernel
  exact all b i h

/-- The image of an instruction that two bytes were read as. -/
theorem image_of_decodeImage2 {b p : Byte} {i : Instr} (h : decodeImage2 b p = some i) : imageBytes i = [b, p] := by
  unfold decodeImage2 at h
  repeat' (split at h)
  all_goals first | (cases h; done) | (cases h; subst_vars; rfl)

end Sys2Proof
end

