-- ==== Sys2Proof/Laws/Step.lean ====
section
/-! SUPPORT. The step taken apart once: what it is on each path, what it can be, and what no handler touches. -/

namespace Sys2Proof.Machine

/-! The operations that choose between two outcomes -/

theorem branch_taken (t : Word) (s : State) : branch true t s = s.jumpTo t := rfl

theorem branch_not_taken (t : Word) (s : State) : branch false t s = s.advance := rfl

theorem divBy_zero (s : State) : divBy 0 s = s.raiseFault .divZero "division by zero" := if_pos rfl

theorem divBy_nonzero {d : Word} (h : d ≠ 0) (s : State) :
    divBy d s = ((s.assign .ax (w16 (((s.reg .dx).toNat * 65536 + (s.reg .ax).toNat) / d.toNat : Nat))).assign .dx
      (w16 (((s.reg .dx).toNat * 65536 + (s.reg .ax).toNat) % d.toNat : Nat))).advance :=
  if_neg h

/-- Everything `branch` can do, said of any property of its outcome. -/
theorem branch_cases {P : State → Prop} {c : Bool} {t : Word} {s : State} (h1 : P (s.jumpTo t)) (h2 : P s.advance) :
    P (branch c t s) := by
  cases c
  · exact h2
  · exact h1

/-! The handlers as a whole -/

/-- Every handler ends in a next state (40_step_cycle.md R125, 60_exceptions.md R247). -/
theorem exec_completes (i : Instr) (s : State) : ∃ t, exec i s = .next t := by cases i <;> exact ⟨_, rfl⟩

/-- What no handler touches: the cycle count, the store, the program, the trace, and the model's own fields. -/
structure Untouched (s t : State) : Prop where
  cycles : t.cpu.cycles = s.cpu.cycles
  istore : t.istore = s.istore
  program : t.program = s.program
  trace : t.trace = s.trace
  awaitingLoad : t.awaitingLoad = s.awaitingLoad
  size : t.ctx.size = s.ctx.size

theorem branch_untouched (c : Bool) (t : Word) (s : State) : Untouched s (branch c t s) :=
  branch_cases ⟨rfl, rfl, rfl, rfl, rfl, rfl⟩ ⟨rfl, rfl, rfl, rfl, rfl, rfl⟩

theorem divBy_untouched (d : Word) (s : State) : Untouched s (divBy d s) := by
  unfold divBy
  split <;> exact ⟨rfl, rfl, rfl, rfl, rfl, rfl⟩

theorem exec_untouched {i : Instr} {s t : State} (h : exec i s = .next t) : Untouched s t := by
  cases i <;> injection h with h <;> subst h
  case divReg r => exact divBy_untouched _ _
  case divImm n => exact divBy_untouched _ _
  case hlt => split <;> exact ⟨rfl, rfl, rfl, rfl, rfl, rfl⟩
  case loop t =>
    have b := branch_untouched (decide (w16 ((s.reg .cx).toNat - 1 : Int) ≠ 0)) t
      (s.assign .cx (w16 ((s.reg .cx).toNat - 1 : Int)))
    exact ⟨b.1, b.2, b.3, b.4, b.5, b.6⟩
  all_goals first
    | exact branch_untouched _ _ _
    | exact ⟨rfl, rfl, rfl, rfl, rfl, rfl⟩

/-! The paths of a step (R121) -/

theorem step_of_halted {s : State} (h : s.cpu.halted = true) : step s = .next s := by simp [step, stepOnce, h]

theorem step_of_awaiting {s : State} (h : s.cpu.halted = false) (ha : s.awaitingLoad = true) :
    step s = .refused .stepAfterReset := by
  simp [step, stepOnce, h, ha]

theorem step_of_miss {s : State} (h : s.cpu.halted = false) (ha : s.awaitingLoad = false) (hf : s.fetch = none) :
    step s = .next s.halt := by
  simp [step, stepOnce, h, ha, fetchAndRun, hf]

theorem step_of_inadmissible {s : State} {r : Record} {why : DecodeError} (h : s.cpu.halted = false)
    (ha : s.awaitingLoad = false) (hf : s.fetch = some r) (hi : r.decode = .error why) :
    step s = .refused (.inadmissibleRecord why) := by
  simp [step, stepOnce, h, ha, fetchAndRun, hf, hi]

theorem step_of_record {s t : State} {r : Record} {i : Instr} (h : s.cpu.halted = false) (ha : s.awaitingLoad = false)
    (hf : s.fetch = some r) (hi : r.decode = .ok i) (ht : exec i (s.beginStep r) = .next t) :
    step s = .next (t.endStep s r) := by
  simp [step, stepOnce, h, ha, fetchAndRun, hf, hi, runRecord, ht]

/-- Everything a step of a ready machine that answers a next state can be: a fetch miss, or a handler between `beginStep`
and `endStep`. -/
theorem step_cases {s t : State} (hh : s.cpu.halted = false) (h : step s = .next t) :
    s.awaitingLoad = false ∧
      ((s.fetch = none ∧ t = s.halt) ∨
        ∃ r i u, s.fetch = some r ∧ r.decode = .ok i ∧ exec i (s.beginStep r) = .next u ∧ t = u.endStep s r) := by
  cases ha : s.awaitingLoad with
  | true => rw [step_of_awaiting hh ha] at h; cases h
  | false =>
    refine ⟨rfl, ?_⟩
    cases hf : s.fetch with
    | none => rw [step_of_miss hh ha hf] at h; cases h; exact .inl ⟨rfl, rfl⟩
    | some r =>
      cases hi : r.decode with
      | error why => rw [step_of_inadmissible hh ha hf hi] at h; cases h
      | ok i =>
        obtain ⟨u, hu⟩ := exec_completes i (s.beginStep r)
        rw [step_of_record hh ha hf hi hu] at h
        cases h
        exact .inr ⟨r, i, u, rfl, hi, hu, rfl⟩

/-- The log of one or two accesses from an empty log. -/
theorem pushAccess_nil (e : Access) : pushAccess [] e = [e] := pushAccess_of_short (by simp)

theorem pushAccess_one (e f : Access) : pushAccess [e] f = [e, f] := pushAccess_of_short (by simp)

end Sys2Proof.Machine
end

