-- ==== Sys2Proof/Laws/Host.lean ====
section
/-! SUPPORT. Memory keeps its canonical form under every operation that writes it, and what a load and a host access leave
as it was. -/

namespace Sys2Proof.Machine

theorem State.reset_mem_wf : Memory.wf State.reset.mem = true := rfl

theorem State.pokeByte_wf {s : State} (h : Memory.wf s.mem = true) (a : PhysAddr) (v : Byte) :
    Memory.wf (s.pokeByte a v).mem = true :=
  Memory.wf_write h a v

theorem State.writeByte_wf {s : State} (h : Memory.wf s.mem = true) (a : PhysAddr) (v : Byte) :
    Memory.wf (s.writeByte a v).mem = true :=
  Memory.wf_write h a v

theorem State.writeWord_wf {s : State} (h : Memory.wf s.mem = true) (a : PhysAddr) (v : Word) :
    Memory.wf (s.writeWord a v).mem = true :=
  Memory.wf_write (Memory.wf_write h a _) (a + 1) _

theorem State.push16_wf {s : State} (h : Memory.wf s.mem = true) (v : Word) : Memory.wf (s.push16 v).mem = true :=
  State.writeWord_wf (s := s.assign .sp (s.reg .sp - 2)) h _ v

theorem State.writeImage_wf (bytes : List Byte) :
    ∀ {s : State}, Memory.wf s.mem = true → ∀ a, Memory.wf (s.writeImage a bytes).mem = true := by
  induction bytes with
  | nil => intro s h a; exact h
  | cons b rest ih => intro s h a; exact ih (State.writeByte_wf h a b) (a + 1)

theorem State.loadRecords_wf (p : List Record) :
    ∀ {s : State}, Memory.wf s.mem = true → Memory.wf (s.loadRecords p).mem = true := by
  induction p with
  | nil => intro s h; exact h
  | cons r rest ih => intro s h; exact ih (State.writeImage_wf r.bytes (s := { s with istore := Table.insert r.addr r s.istore }) h _)

/-- What the byte writes of a load leave as it was: everything but memory and its log. -/
theorem State.writeImage_keeps (bytes : List Byte) : ∀ (s : State) (a : PhysAddr),
    (s.writeImage a bytes).cpu = s.cpu ∧ (s.writeImage a bytes).istore = s.istore ∧
    (s.writeImage a bytes).program = s.program ∧ (s.writeImage a bytes).trace = s.trace ∧
    (s.writeImage a bytes).awaitingLoad = s.awaitingLoad ∧ (s.writeImage a bytes).ctx = s.ctx := by
  induction bytes with
  | nil => intro s a; exact ⟨rfl, rfl, rfl, rfl, rfl, rfl⟩
  | cons b rest ih => intro s a; exact ih (s.writeByte a b) (a + 1)

/-- What the load of the records leaves as it was: everything but memory, its log and the store. -/
theorem State.loadRecords_keeps (p : List Record) : ∀ s : State,
    (s.loadRecords p).cpu = s.cpu ∧ (s.loadRecords p).program = s.program ∧ (s.loadRecords p).trace = s.trace ∧
    (s.loadRecords p).awaitingLoad = s.awaitingLoad ∧ (s.loadRecords p).ctx = s.ctx := by
  induction p with
  | nil => intro s; exact ⟨rfl, rfl, rfl, rfl, rfl⟩
  | cons r rest ih =>
    intro s
    obtain ⟨a, b, c, d, e⟩ := ih ({ s with istore := Table.insert r.addr r s.istore }.writeImage
      (BitVec.ofNat 20 r.addr) r.bytes)
    obtain ⟨a', -, b', c', d', e'⟩ := State.writeImage_keeps r.bytes
      { s with istore := Table.insert r.addr r s.istore } (BitVec.ofNat 20 r.addr)
    exact ⟨a.trans a', b.trans b', c.trans c', d.trans d', e.trans e'⟩

/-- A host access leaves what its operation leaves, but for the log, which the parameter decides. -/
theorem State.hostAccess_keeps (s t : State) :
    (s.hostAccess t).cpu = t.cpu ∧ (s.hostAccess t).mem = t.mem ∧ (s.hostAccess t).istore = t.istore ∧
    (s.hostAccess t).program = t.program ∧ (s.hostAccess t).trace = t.trace ∧
    (s.hostAccess t).awaitingLoad = t.awaitingLoad ∧ (s.hostAccess t).ctx = t.ctx := by
  unfold State.hostAccess
  split <;> exact ⟨rfl, rfl, rfl, rfl, rfl, rfl, rfl⟩

end Sys2Proof.Machine
end

