-- ==== Sys2Proof/Laws/PerInstr.lean ====
section
/-! SUPPORT. Statements about an instruction as syntax, one lemma a constructor: the record of an instruction, with its
default image, is admitted as that instruction at every address (30_encoding.md R80, R82, R95; 70_reset_and_hazards.md
R253). -/

namespace Sys2Proof.Laws.RoundTrip

/-- The record of an instruction is admitted, and as that instruction. -/
def Statement (i : Instr) : Prop := ∀ addr : Nat, (i.toRecord addr).decode = .ok i

theorem admits (i : Instr) (h : (decide (1 ≤ (imageBytes i).length) && decide ((imageBytes i).length ≤ 3)) = true) :
    Statement i := by
  intro addr
  have hs : (i.toRecord addr).sizeOk = true := h
  rw [Record.decode, if_pos hs]
  simp [Instr.toRecord, decodeRecord]

theorem movImm (d : OpReg) (n : Word) : Statement (.movImm d n) := admits _ rfl

theorem movReg (d : OpReg) (r : OpReg) : Statement (.movReg d r) := admits _ rfl

theorem push (r : OpReg) : Statement (.push r) := admits _ rfl

theorem pop (r : OpReg) : Statement (.pop r) := admits _ rfl

theorem xchg (a : OpReg) (b : OpReg) : Statement (.xchg a b) := admits _ rfl

theorem addReg (d : OpReg) (r : OpReg) : Statement (.addReg d r) := admits _ rfl

theorem addImm (d : OpReg) (n : Word) : Statement (.addImm d n) := admits _ rfl

theorem subReg (d : OpReg) (r : OpReg) : Statement (.subReg d r) := admits _ rfl

theorem subImm (d : OpReg) (n : Word) : Statement (.subImm d n) := admits _ rfl

theorem andReg (d : OpReg) (r : OpReg) : Statement (.andReg d r) := admits _ rfl

theorem andImm (d : OpReg) (n : Word) : Statement (.andImm d n) := admits _ rfl

theorem orReg (d : OpReg) (r : OpReg) : Statement (.orReg d r) := admits _ rfl

theorem orImm (d : OpReg) (n : Word) : Statement (.orImm d n) := admits _ rfl

theorem xorReg (d : OpReg) (r : OpReg) : Statement (.xorReg d r) := admits _ rfl

theorem xorImm (d : OpReg) (n : Word) : Statement (.xorImm d n) := admits _ rfl

theorem cmpReg (a : OpReg) (b : OpReg) : Statement (.cmpReg a b) := admits _ rfl

theorem cmpImm (a : OpReg) (n : Word) : Statement (.cmpImm a n) := admits _ rfl

theorem inc (r : OpReg) : Statement (.inc r) := admits _ rfl

theorem dec (r : OpReg) : Statement (.dec r) := admits _ rfl

theorem mulReg (r : OpReg) : Statement (.mulReg r) := admits _ rfl

theorem mulImm (n : Word) : Statement (.mulImm n) := admits _ rfl

theorem divReg (r : OpReg) : Statement (.divReg r) := admits _ rfl

theorem divImm (n : Word) : Statement (.divImm n) := admits _ rfl

theorem neg (r : OpReg) : Statement (.neg r) := admits _ rfl

theorem not (r : OpReg) : Statement (.not r) := admits _ rfl

theorem jmp (t : Word) : Statement (.jmp t) := admits _ rfl

theorem je (t : Word) : Statement (.je t) := admits _ rfl

theorem jz (t : Word) : Statement (.jz t) := admits _ rfl

theorem jne (t : Word) : Statement (.jne t) := admits _ rfl

theorem jnz (t : Word) : Statement (.jnz t) := admits _ rfl

theorem jg (t : Word) : Statement (.jg t) := admits _ rfl

theorem jge (t : Word) : Statement (.jge t) := admits _ rfl

theorem jl (t : Word) : Statement (.jl t) := admits _ rfl

theorem jle (t : Word) : Statement (.jle t) := admits _ rfl

theorem call (t : Word) : Statement (.call t) := admits _ rfl

theorem loop (t : Word) : Statement (.loop t) := admits _ rfl

theorem ret : Statement (.ret) := admits _ rfl

theorem nop : Statement (.nop) := admits _ rfl

theorem hlt : Statement (.hlt) := admits _ rfl

theorem unknown (op1 : Operand) (op2 : Operand) : Statement (.unknown op1 op2) := admits _ rfl

end Sys2Proof.Laws.RoundTrip
end

