-- ==== Sys2Proof/Laws/Word.lean ====
section
/-! SUPPORT. The masks, the flag computations and the IP arithmetic as facts about numbers. -/

namespace Sys2Proof.Machine

/-- `w16(v)` as a number is `v mod 2^16`. -/
theorem w16_toNat (v : Int) : ((w16 v).toNat : Int) = v % 0x10000 := by
  simp [w16, BitVec.toNat_ofInt]
  omega

theorem w16_natCast (n : Nat) : w16 (n : Int) = BitVec.ofNat 16 n := BitVec.ofInt_natCast 16 n

theorem w16_natCast_toNat (n : Nat) : (w16 (n : Int)).toNat = n % 0x10000 := by simp [w16_natCast]

theorem zeroFlag_iff (v : Word) : zeroFlag v = true ↔ v.toNat = 0 := by
  simp [zeroFlag, ← BitVec.toNat_inj]

theorem signFlag_iff (v : Word) : signFlag v = true ↔ 0x8000 ≤ v.toNat := by
  have := v.isLt
  simp [signFlag, BitVec.getLsbD, Nat.testBit_eq_decide_div_mod_eq]
  omega

theorem addCarry_iff (a b : Word) : addCarry a b = true ↔ 0xFFFF < a.toNat + b.toNat := by simp [addCarry]

theorem subBorrow_iff (a b : Word) : subBorrow a b = true ↔ a.toNat < b.toNat := by simp [subBorrow]

theorem mulHigh_iff (hi : Word) : mulHigh hi = true ↔ hi.toNat ≠ 0 := by simp [mulHigh, ← BitVec.toNat_inj]

theorem State.returnOffset_toNat (s : State) : s.returnOffset.toNat = ((s.reg .ip).toNat + s.ctx.size) % 0x10000 :=
  w16_natCast_toNat _

/-- A state whose IP is the return offset has advanced. -/
theorem advanced_of_ip {s t : State} (h : t.reg .ip = s.returnOffset) : Advanced s t := by
  rw [Advanced, h, State.returnOffset_toNat]

theorem wordSub_two_toNat (v : Word) : (v - 2).toNat = (v.toNat + 0xFFFE) % 0x10000 := by
  rw [BitVec.toNat_sub]
  simp
  omega

theorem wordAdd_two_toNat (v : Word) : (v + 2).toNat = (v.toNat + 2) % 0x10000 := by
  simp [BitVec.toNat_add]

theorem phys_toNat (seg off : Word) : (phys seg off).toNat = (seg.toNat * 16 + off.toNat) % 0x100000 := by
  simp [phys]

theorem lowByte_toNat (v : Word) : (lowByte v).toNat = v.toNat % 256 := by simp [lowByte]

theorem highByte_toNat (v : Word) : (highByte v).toNat = v.toNat / 256 := by
  have := v.isLt
  simp [highByte, Nat.shiftRight_eq_div_pow]
  omega

end Sys2Proof.Machine
end

