-- ==== Sys2Proof/Tests/Slice0.lean ====
section
/-! SUPPORT. Tests, each of one step or one call on a small state, with the values of spec/95_test_vectors.md or worked out
from the rule named; and a witness for the hypotheses of every statement that has any. -/

namespace Sys2Proof.Tests

open Sys2Proof Sys2Proof.Machine

/-- The reset state with some registers and flags set, some bytes of memory, and a record of `size` bytes being run. -/
def stateWith (regs : List (Reg × Word)) (flags : List Flag) (mem : List Host.Cell) (size : Nat) : State :=
  let base : State := { State.reset with mem := mem, ctx := { Context.idle with size := size } }
  flags.foldl (fun s f => s.setFlag f true) (regs.foldl (fun s r => s.setReg r.1 r.2) base)

/-- What is seen of a next state. -/
def seen {α : Type} (o : Host.Outcome State Fault Refusal) (look : State → α) : Option α :=
  match o with
  | .next t => some (look t)
  | _ => none

/-- ZF, CF, SF, OF. -/
def flagsOf (s : State) : Bool × Bool × Bool × Bool := (s.flag .zf, s.flag .cf, s.flag .sf, s.flag .of)

/-- The record of an instruction with its default image, at address 0. -/
def recordOf (i : Instr) : Record := i.toRecord 0

/-- A machine at the reset state with one instruction where it fetches. -/
def ready (i : Instr) : State :=
  { State.reset with istore := [(0, recordOf i)] }

/-! The checks of WellFormed: an ill-formed record or program for each (R21, R82, R253) -/

theorem test_wf_refuses_ip_operand : (({ recordOf (.inc .ax) with op1 := .reg .ip } : Record).wf) = false := by decide

theorem test_wf_refuses_missing_operand : (({ recordOf (.inc .ax) with op1 := .none } : Record).wf) = false := by decide

theorem test_wf_refuses_immediate_destination : (({ recordOf (.addImm .ax 1) with op1 := .imm 1 } : Record).wf) = false := by
  decide

theorem test_wf_refuses_register_target : (({ recordOf (.jmp 1) with op1 := .reg .ax } : Record).wf) = false := by decide

theorem test_wf_refuses_empty_image : (({ recordOf .nop with bytes := [] } : Record).wf) = false := by decide

theorem test_wf_refuses_four_byte_image : (({ recordOf .nop with bytes := [0x90, 0x90, 0x90, 0x90] } : Record).wf) = false := by
  decide

theorem test_wf_admits_and_refuses_a_program :
    programWf [recordOf .nop, recordOf .hlt] = true ∧ programWf [recordOf .nop, { recordOf .hlt with op2 := .imm 1 }] = false := by decide

theorem test_wf_refuses_a_program_too_large : programFits (List.replicate 0x10001 (recordOf .nop)) = false ∧
    programFits (List.replicate 0x10000 (recordOf .nop)) = true := by
  have h : ∀ n, programSize (List.replicate n (recordOf .nop)) = n := by
    intro n
    simp [programSize, recordOf, Instr.toRecord, Record.size, imageBytes]
  exact ⟨by rw [programFits, h]; decide, by rw [programFits, h]; decide⟩

/-! Decoding: images written out bit by bit from the tables of 30_encoding.md R92 to R96 -/

theorem test_decode_image_with_register :
    decodeTableWord 8 0b01010000 = some (.push .ax) ∧ decodeTableWord 8 0b01011011 = some (.pop .bx) ∧
    decodeTableWord 8 0b01000111 = some (.inc .di) ∧ decodeTableWord 8 0b01001100 = some (.dec .sp) ∧
    decodeTableWord 24 0b101110010000010100000000 = some (.movImm .cx 5) ∧
    decodeTableWord 24 0b101110000011010000010010 = some (.movImm .ax 0x1234) := by decide

theorem test_decode_image_bare :
    decodeTableWord 8 0b11000011 = some .ret ∧ decodeTableWord 8 0b10010000 = some .nop ∧
    decodeTableWord 8 0b11110100 = some .hlt := by decide

theorem test_decode_image_placeholder :
    decodeTableWord 16 0b1000100111000000 = some (.movReg .ax .ax) ∧
    decodeTableWord 16 0b1000011111000000 = some (.xchg .ax .ax) ∧
    decodeTableWord 16 0b0000000111000000 = some (.addReg .ax .ax) ∧
    decodeTableWord 16 0b0010100111000000 = some (.subReg .ax .ax) ∧
    decodeTableWord 16 0b0010000111000000 = some (.andReg .ax .ax) ∧
    decodeTableWord 16 0b0000100111000000 = some (.orReg .ax .ax) ∧
    decodeTableWord 16 0b0011000111000000 = some (.xorReg .ax .ax) ∧
    decodeTableWord 16 0b0011100111000000 = some (.cmpReg .ax .ax) := by decide

theorem test_decode_image_group_f7 :
    decodeTableWord 16 0b1111011111100000 = some (.mulReg .ax) ∧
    decodeTableWord 16 0b1111011111110000 = some (.divReg .ax) ∧
    decodeTableWord 16 0b1111011111011000 = some (.neg .ax) ∧
    decodeTableWord 16 0b1111011111010000 = some (.not .ax) := by decide

theorem test_decode_image_targets :
    decodeTableWord 24 0b111010010000000000000000 = some (.jmp 0) ∧
    decodeTableWord 24 0b011101000000000000000000 = some (.je 0) ∧
    decodeTableWord 24 0b011101010000000000000000 = some (.jne 0) ∧
    decodeTableWord 24 0b011111110000000000000000 = some (.jg 0) ∧
    decodeTableWord 24 0b011111010000000000000000 = some (.jge 0) ∧
    decodeTableWord 24 0b011111000000000000000000 = some (.jl 0) ∧
    decodeTableWord 24 0b011111100000000000000000 = some (.jle 0) ∧
    decodeTableWord 24 0b111010000000000000000000 = some (.call 0) ∧
    decodeTableWord 24 0b111000100000000000000000 = some (.loop 0) := by decide

theorem test_decode_image_refuses :
    decodeImage [0xCC] = .error (.notAnOpcode 0xCC) ∧ decodeImage [0x01] = .error (.truncated 0x01) ∧
    decodeImage [0x01, 0xC1] = .error (.badPlaceholder 0x01) ∧ decodeImage [] = .error .noBytes ∧
    decodeImage [0xE9, 0x00] = .error (.truncated 0xE9) ∧ decodeImage [0xE9, 0x01, 0x00] = .error (.badPlaceholder 0xE9) := by
  decide

/-! Decoding: records written out from the table of 30_encoding.md R82 -/

theorem test_decode_record_transfer :
    decodeRecord .mov (.reg .cx) (.imm 5) = .ok (.movImm .cx 5) ∧ decodeRecord .mov (.reg .ax) (.reg .bx) = .ok (.movReg .ax .bx) ∧
    decodeRecord .push (.reg .ax) .none = .ok (.push .ax) ∧ decodeRecord .pop (.reg .bx) .none = .ok (.pop .bx) ∧
    decodeRecord .xchg (.reg .ax) (.reg .bx) = .ok (.xchg .ax .bx) ∧
    decodeRecord .unknown (.reg .es) (.imm 7) = .ok (.unknown (.reg .es) (.imm 7)) := by decide

theorem test_decode_record_arithmetic :
    decodeRecord .add (.reg .dx) (.reg .ax) = .ok (.addReg .dx .ax) ∧ decodeRecord .add (.reg .ax) (.imm 1) = .ok (.addImm .ax 1) ∧
    decodeRecord .sub (.reg .dx) (.reg .ax) = .ok (.subReg .dx .ax) ∧ decodeRecord .sub (.reg .ax) (.imm 1) = .ok (.subImm .ax 1) ∧
    decodeRecord .inc (.reg .bx) .none = .ok (.inc .bx) ∧ decodeRecord .dec (.reg .bx) .none = .ok (.dec .bx) ∧
    decodeRecord .neg (.reg .si) .none = .ok (.neg .si) ∧ decodeRecord .mul (.reg .bx) .none = .ok (.mulReg .bx) ∧
    decodeRecord .mul (.imm 3) .none = .ok (.mulImm 3) ∧ decodeRecord .div (.reg .bx) .none = .ok (.divReg .bx) ∧
    decodeRecord .div (.imm 0) .none = .ok (.divImm 0) := by decide

theorem test_decode_record_logic :
    decodeRecord .and (.reg .dx) (.reg .ax) = .ok (.andReg .dx .ax) ∧ decodeRecord .and (.reg .ax) (.imm 1) = .ok (.andImm .ax 1) ∧
    decodeRecord .or (.reg .dx) (.reg .ax) = .ok (.orReg .dx .ax) ∧ decodeRecord .or (.reg .ax) (.imm 1) = .ok (.orImm .ax 1) ∧
    decodeRecord .xor (.reg .dx) (.reg .ax) = .ok (.xorReg .dx .ax) ∧ decodeRecord .xor (.reg .ax) (.imm 1) = .ok (.xorImm .ax 1) ∧
    decodeRecord .cmp (.reg .dx) (.reg .ax) = .ok (.cmpReg .dx .ax) ∧ decodeRecord .cmp (.reg .ax) (.imm 1) = .ok (.cmpImm .ax 1) ∧
    decodeRecord .not (.reg .ax) .none = .ok (.not .ax) := by decide

theorem test_decode_record_control :
    decodeRecord .jmp (.imm 9) .none = .ok (.jmp 9) ∧ decodeRecord .je (.imm 9) .none = .ok (.je 9) ∧
    decodeRecord .jz (.imm 9) .none = .ok (.jz 9) ∧ decodeRecord .jne (.imm 9) .none = .ok (.jne 9) ∧
    decodeRecord .jnz (.imm 9) .none = .ok (.jnz 9) ∧ decodeRecord .jg (.imm 9) .none = .ok (.jg 9) ∧
    decodeRecord .jge (.imm 9) .none = .ok (.jge 9) ∧ decodeRecord .jl (.imm 9) .none = .ok (.jl 9) ∧
    decodeRecord .jle (.imm 9) .none = .ok (.jle 9) ∧ decodeRecord .call (.imm 9) .none = .ok (.call 9) ∧
    decodeRecord .loop (.imm 9) .none = .ok (.loop 9) ∧ decodeRecord .ret .none .none = .ok .ret ∧
    decodeRecord .nop .none .none = .ok .nop ∧ decodeRecord .hlt .none .none = .ok .hlt := by decide

theorem test_decode_record_refuses :
    decodeRecord .add (.imm 1) (.reg .ax) = .error (.inadmissibleShape .add) ∧
    decodeRecord .jmp (.reg .ax) .none = .error (.inadmissibleShape .jmp) ∧
    decodeRecord .hlt .none (.imm 1) = .error (.inadmissibleShape .hlt) ∧
    decodeRecord .unknown .none (.reg .ip) = .error (.ipOperand .unknown) := by decide

/-! Registers, addresses, memory (95_test_vectors.md L1-1, L1-2, L1-10) -/

theorem test_register_write_masks : w16 0x12345 = 0x2345 ∧ w16 (-2) = 0xFFFE ∧ w16 0x10000 = 0 := by decide

theorem test_phys : phys 0x0FFF 0x0010 = 0x10000#20 ∧ phys 0xF000 0xFFFF = 0xFFFFF#20 ∧ phys 0xFFFF 0x000F = 0xFFFFF#20 := by
  decide

theorem test_memory_write_is_canonical :
    Memory.write (Memory.write [] 5 7) 5 0 = [] ∧ Memory.write [(3, 1)] 2 9 = [(2, 9), (3, 1)] := by decide

theorem test_word_write_wraps_at_the_top :
    (State.reset.writeWord 0xFFFFF 0x1234).mem = [(0, 0x12), (0xFFFFF, 0x34)] ∧
    (State.reset.writeWord 0x00100 0xBEEF).accessLog.map (fun e => (e.kind, e.address, e.value, e.size)) =
      [(.write, 0x00100, 0xEF, 1), (.write, 0x00101, 0xBE, 1)] := by decide

/-! Data transfer (V-MOV, V-PUSH, V-POP, V-XCHG) -/

theorem test_mov_imm : seen (exec (.movImm .cx 5) (stateWith [] [.cf] [] 3)) (fun t => (t.reg .cx, t.reg .ip, t.flag .cf)) =
    some (5, 3, true) := by decide

theorem test_mov_reg : seen (exec (.movReg .ax .bx) (stateWith [(.bx, 0xBEEF)] [] [] 2)) (fun t => (t.reg .ax, t.reg .bx)) =
    some (0xBEEF, 0xBEEF) := by decide

theorem test_push_little_endian :
    seen (exec (.push .ax) (stateWith [(.ax, 0x1234)] [] [] 1)) (fun t => (t.reg .sp, t.mem)) =
      some (0xFFFC, [(0x0FFFC, 0x34), (0x0FFFD, 0x12)]) := by decide

theorem test_push_sp_wraps :
    seen (exec (.push .ax) (stateWith [(.ax, 0xABCD), (.sp, 1)] [] [] 1)) (fun t => (t.reg .sp, t.mem)) =
      some (0xFFFF, [(0x0FFFF, 0xCD), (0x10000, 0xAB)]) ∧
    seen (exec (.push .sp) (stateWith [(.sp, 0x1000)] [] [] 1)) (fun t => (t.reg .sp, t.mem)) =
      some (0x0FFE, [(0x00FFF, 0x10)]) := by decide

theorem test_pop : seen (exec (.pop .bx) (stateWith [(.sp, 0xFFFC)] [] [(0x0FFFC, 0x34), (0x0FFFD, 0x12)] 1))
    (fun t => (t.reg .bx, t.reg .sp, t.mem)) = some (0x1234, 0xFFFE, [(0x0FFFC, 0x34), (0x0FFFD, 0x12)]) := by decide

theorem test_pop_sp : seen (exec (.pop .sp) (stateWith [(.sp, 0x0FFE)] [] [(0x00FFF, 0x20)] 1)) (fun t => t.reg .sp) =
    some 0x2000 := by decide

theorem test_xchg_does_not_exchange :
    seen (exec (.xchg .ax .bx) (stateWith [(.ax, 1), (.bx, 2)] [] [] 2))
      (fun t => (t.reg .ax, t.reg .bx, t.reg .ip, t.cpu.halted)) = some (1, 2, 2, false) := by decide

theorem test_unknown_advances :
    seen (exec (.unknown .none .none) (stateWith [] [] [] 1)) (fun t => (t.reg .ip, t.cpu.halted, t.ctx.result)) =
      some (1, false, .unknownInstruction) := by decide

/-! Arithmetic (V-ADD to V-DIV) -/

theorem test_add_reg_carry :
    seen (exec (.addReg .ax .bx) (stateWith [(.ax, 0xFFFF), (.bx, 1)] [.of] [] 2)) (fun t => (t.reg .ax, flagsOf t)) =
      some (0, true, true, false, true) := by decide

theorem test_add_reg_to_itself :
    seen (exec (.addReg .ax .ax) (stateWith [(.ax, 0x4000)] [] [] 2)) (fun t => (t.reg .ax, flagsOf t)) =
      some (0x8000, false, false, true, false) := by decide

theorem test_add_imm : seen (exec (.addImm .ax 0xFFFF) (stateWith [(.ax, 0xFFFF)] [] [] 2)) (fun t => (t.reg .ax, flagsOf t)) =
    some (0xFFFE, false, true, true, false) := by decide

theorem test_sub_reg_borrow :
    seen (exec (.subReg .ax .bx) (stateWith [(.ax, 3), (.bx, 5)] [.of] [] 2)) (fun t => (t.reg .ax, flagsOf t)) =
      some (0xFFFE, false, true, true, true) := by decide

theorem test_sub_imm : seen (exec (.subImm .ax 1) (stateWith [(.ax, 0x8000)] [.cf] [] 2)) (fun t => (t.reg .ax, flagsOf t)) =
    some (0x7FFF, false, false, false, false) := by decide

theorem test_inc_keeps_carry :
    seen (exec (.inc .ax) (stateWith [(.ax, 0xFFFF)] [.cf] [] 1)) (fun t => (t.reg .ax, flagsOf t, t.reg .ip)) =
      some (0, (true, true, false, false), 1) := by decide

theorem test_dec_wraps : seen (exec (.dec .ax) (stateWith [] [.of] [] 1)) (fun t => (t.reg .ax, flagsOf t)) =
    some (0xFFFF, false, false, true, true) := by decide

theorem test_neg : seen (exec (.neg .ax) (stateWith [(.ax, 1)] [] [] 2)) (fun t => (t.reg .ax, flagsOf t)) =
    some (0xFFFF, false, false, true, false) := by decide

theorem test_neg_most_negative : seen (exec (.neg .ax) (stateWith [(.ax, 0x8000)] [] [] 2)) (fun t => t.reg .ax) =
    some 0x8000 := by decide

theorem test_mul_reg_high_half :
    seen (exec (.mulReg .bx) (stateWith [(.ax, 0x1234), (.bx, 0x10)] [.zf] [] 2))
      (fun t => (t.reg .dx, t.reg .ax, flagsOf t)) = some (1, 0x2340, true, true, false, true) := by decide

theorem test_mul_reg_by_dx :
    seen (exec (.mulReg .dx) (stateWith [(.ax, 3), (.dx, 5)] [.cf, .of] [] 2))
      (fun t => (t.reg .dx, t.reg .ax, flagsOf t)) = some (0, 0x000F, false, false, false, false) := by decide

theorem test_mul_imm : seen (exec (.mulImm 0xFFFF) (stateWith [(.ax, 0xFFFF)] [] [] 2)) (fun t => (t.reg .dx, t.reg .ax)) =
    some (0xFFFE, 1) := by decide

theorem test_div_reg :
    seen (exec (.divReg .bx) (stateWith [(.ax, 0x64), (.bx, 7)] [.cf] [] 2)) (fun t => (t.reg .ax, t.reg .dx, flagsOf t)) =
      some (0xE, 2, false, true, false, false) := by decide

theorem test_div_reg_by_zero :
    seen (exec (.divReg .bx) (stateWith [(.ax, 0x1234), (.dx, 1)] [] [] 2))
      (fun t => (t.reg .ax, t.reg .dx, t.reg .ip, t.cpu.halted)) = some (0x1234, 1, 0, true) := by decide

theorem test_div_imm_truncates :
    seen (exec (.divImm 1) (stateWith [(.ax, 5), (.dx, 2)] [] [] 2)) (fun t => (t.reg .ax, t.reg .dx)) = some (5, 0) := by
  decide

/-! Logic (V-LOGIC, V-NOT, V-CMP) -/

theorem test_and_reg :
    seen (exec (.andReg .ax .bx) (stateWith [(.ax, 0xF0F0), (.bx, 0x0FF0)] [.cf, .of] [] 2)) (fun t => (t.reg .ax, flagsOf t)) =
      some (0x00F0, false, false, false, true) := by decide

theorem test_and_imm : seen (exec (.andImm .ax 0) (stateWith [(.ax, 0xFFFF)] [] [] 2)) (fun t => (t.reg .ax, flagsOf t)) =
    some (0, true, false, false, false) := by decide

theorem test_or_reg_clears_carry :
    seen (exec (.orReg .ax .ax) (stateWith [(.ax, 0x1234)] [.cf] [] 2)) (fun t => (t.reg .ax, flagsOf t)) =
      some (0x1234, false, false, false, false) := by decide

theorem test_or_imm : seen (exec (.orImm .ax 0x0FF0) (stateWith [(.ax, 0xF0F0)] [] [] 2)) (fun t => (t.reg .ax, flagsOf t)) =
    some (0xFFF0, false, false, true, false) := by decide

theorem test_xor_reg_with_itself :
    seen (exec (.xorReg .ax .ax) (stateWith [(.ax, 0x8000)] [.cf] [] 2)) (fun t => (t.reg .ax, flagsOf t)) =
      some (0, true, false, false, false) := by decide

theorem test_xor_imm : seen (exec (.xorImm .ax 0x0FF0) (stateWith [(.ax, 0xF0F0)] [] [] 2)) (fun t => (t.reg .ax, flagsOf t)) =
    some (0xFF00, false, false, true, false) := by decide

theorem test_not : seen (exec (.not .ax) (stateWith [(.ax, 0x7FFF)] [.zf, .cf] [] 2)) (fun t => (t.reg .ax, flagsOf t)) =
    some (0x8000, true, true, false, false) := by decide

theorem test_cmp_reg :
    seen (exec (.cmpReg .ax .bx) (stateWith [(.ax, 0x7FFF), (.bx, 0xFFFF)] [] [] 2)) (fun t => (t.reg .ax, flagsOf t)) =
      some (0x7FFF, false, true, true, false) := by decide

theorem test_cmp_imm : seen (exec (.cmpImm .ax 5) (stateWith [(.ax, 5)] [.cf] [] 2)) (fun t => (t.reg .ax, flagsOf t)) =
    some (5, true, false, false, false) := by decide

/-! Control flow (V-JCC, V-JMP to V-HLT) -/

/-- Which of JE, JNE, JG, JGE, JL, JLE are taken with some flags set, from offset 0 to the target 9. -/
def taken (flags : List Flag) : List (Option Bool) :=
  [Instr.je 9, .jne 9, .jg 9, .jge 9, .jl 9, .jle 9].map fun i =>
    seen (exec i (stateWith [] flags [] 3)) fun t => decide (t.reg .ip = 9)

/-- The rows of V-JCC with ZF = 0. -/
theorem test_jcc_not_zero :
    taken [] = [some false, some true, some true, some true, some false, some false] ∧
    taken [.of] = [some false, some true, some false, some false, some true, some true] ∧
    taken [.sf] = [some false, some true, some false, some false, some true, some true] ∧
    taken [.sf, .of] = [some false, some true, some true, some true, some false, some false] := by decide

/-- The rows of V-JCC with ZF = 1. -/
theorem test_jcc_zero :
    taken [.zf] = [some true, some false, some false, some true, some false, some true] ∧
    taken [.zf, .of] = [some true, some false, some false, some false, some true, some true] ∧
    taken [.zf, .sf] = [some true, some false, some false, some false, some true, some true] ∧
    taken [.zf, .sf, .of] = [some true, some false, some false, some true, some false, some true] := by decide

theorem test_jz_jnz :
    seen (exec (.jz 9) (stateWith [] [.zf] [] 3)) (fun t => t.reg .ip) = some 9 ∧
    seen (exec (.jnz 9) (stateWith [] [.zf] [] 3)) (fun t => t.reg .ip) = some 3 := by decide

theorem test_jmp : seen (exec (.jmp 9) (stateWith [] [] [] 3)) (fun t => (t.reg .ip, t.ctx.changedRegs)) = some (9, [.ip]) := by
  decide

theorem test_call :
    seen (exec (.call 0x200) (stateWith [(.ss, 0x1000), (.sp, 0x100), (.ip, 0x120)] [] [] 3))
      (fun t => (t.reg .sp, t.reg .ip, t.mem)) = some (0xFE, 0x200, [(0x100FE, 0x23), (0x100FF, 0x01)]) := by decide

theorem test_call_return_offset_wraps :
    seen (exec (.call 0) (stateWith [(.ip, 0xFFFD)] [] [] 3)) (fun t => (t.mem, t.accessLog.length)) = some ([], 2) := by decide

theorem test_ret : seen (exec .ret (stateWith [(.sp, 0xFFFC)] [] [(0x0FFFC, 6)] 1)) (fun t => (t.reg .ip, t.reg .sp)) =
    some (6, 0xFFFE) := by decide

theorem test_ret_empty_stack : seen (exec .ret (stateWith [(.ip, 4)] [] [] 1)) (fun t => (t.reg .ip, t.reg .sp)) =
    some (0, 0) := by decide

theorem test_loop_ends : seen (exec (.loop 9) (stateWith [(.cx, 1), (.ip, 0xC)] [] [] 3))
    (fun t => (t.reg .cx, t.reg .ip, t.flag .zf)) = some (0, 0xF, false) := by decide

theorem test_loop_wraps : seen (exec (.loop 9) (stateWith [(.ip, 0xC)] [] [] 3)) (fun t => (t.reg .cx, t.reg .ip)) =
    some (0xFFFF, 9) := by decide

theorem test_nop_wraps : seen (exec .nop (stateWith [(.ip, 0xFFFF)] [] [] 1)) (fun t => t.reg .ip) = some 0 := by decide

theorem test_hlt : seen (exec .hlt (stateWith [(.ip, 0xF)] [] [] 1)) (fun t => (t.cpu.halted, t.reg .ip)) = some (true, 0xF) := by
  decide

/-! The step (V-FETCH, L1-9) -/

theorem test_step_power_on : seen (step State.reset) (fun t => (t.cpu.halted, t.cpu.cycles, t.trace.length)) =
    some (true, 0, 0) := by decide

theorem test_step_fetch_bus : seen (step (ready (.movImm .ax 0)))
    (fun t => (t.cpu.cycles, t.trace.map (fun r => (r.before.cycles, r.after.cycles)), t.trace.flatMap TraceRecord.bus)) =
      some (1, [(0, 0)],
        [{ phase := .address, kind := .fetch, address := 0, data := .none },
         { phase := .data, kind := .fetch, address := 0, data := .byte 0xB8 },
         { phase := .address, kind := .fetch, address := 1, data := .none },
         { phase := .data, kind := .fetch, address := 1, data := .word 0 }]) := by decide

theorem test_step_fetch_crumbs : seen (step (ready (.addReg .ax .bx)))
    (fun t => t.trace.flatMap TraceRecord.crumbs) =
      some [{ segName := .cs, segValue := 0, offName := .ip, offValue := 0, physical := 0 },
        { segName := .cs, segValue := 0, offName := .ipPlus1, offValue := 1, physical := 1 }] := by decide

theorem test_step_operand_fetch_of_two_bytes : operandWord (recordOf (.addReg .ax .bx)) = 0x00C0 := by decide

theorem test_step_push_bus : seen (step ((ready (.push .ax)).setReg .ax 0x1234)) (fun t => t.trace.flatMap TraceRecord.bus) =
    some [{ phase := .address, kind := .fetch, address := 0, data := .none },
      { phase := .data, kind := .fetch, address := 0, data := .byte 0x50 },
      { phase := .address, kind := .write, address := 0x0FFFC, data := .none },
      { phase := .data, kind := .write, address := 0x0FFFC, data := .byte 0x34 },
      { phase := .address, kind := .write, address := 0x0FFFD, data := .none },
      { phase := .data, kind := .write, address := 0x0FFFD, data := .byte 0x12 }] := by decide

theorem test_step_div_by_zero_description : seen (step (ready (.divImm 0)))
    (fun t => (t.trace.map TraceRecord.description, t.cpu.cycles, haltCause t)) =
      some ([.fault .divZero "division by zero"], 1, some (.fault .divZero)) := by decide

theorem test_step_store_image_is_never_fetched :
    seen (step ((ready (.addImm .ax 7)).pokeByte 0 0x90)) (fun t => t.reg .ax) = some 7 := by decide

theorem test_with_fetch_word : seen (step (State.reset.withFetchWord 24 0xB90500)) (fun t => (t.reg .cx, t.reg .ip)) =
    some (5, 3) := by decide

/-! The host: load, run, reset and the assembler -/

theorem test_load_places_records :
    seen (State.loadProgram (State.reset.setReg .cs 0x1000) [recordOf (.movImm .ax 0x1234), recordOf .hlt])
      (fun t => (t.mem, t.istore.map (fun e => (e.1, e.2.mn, e.2.addr)), t.accessLog.length)) =
        some ([(0x10000, 0xB8), (0x10001, 0x34), (0x10002, 0x12), (0x10003, 0xF4)],
          [(0x10000, .mov, 0x10000), (0x10003, .hlt, 0x10003)], 4) := by decide

theorem test_load_refuses : State.loadProgram State.reset [{ recordOf .nop with op1 := .reg .ax }] =
    .refused (.inadmissibleRecord (.inadmissibleShape .nop)) := rfl

theorem test_run_stops_at_the_budget : seen (run 1 (ready (.jmp 0))) (fun t => (t.cpu.cycles, t.cpu.halted)) =
    some (1, false) := by decide

theorem test_step_after_reset_is_refused : step State.reset.hostReset = .refused .stepAfterReset := rfl

theorem test_host_write_out_of_range : State.hostSetReg State.reset .ax 0x10000 = .refused .hostValueOutOfRange := rfl

/-- A forward label resolves to the offset of the next instruction (R87, R89). -/
theorem test_assemble_label :
    (assemble "JMP F\nF:\nHLT".toList).records.map (fun r => (r.mn, r.op1, r.addr)) =
      [(.jmp, .imm 3, 0), (.hlt, .none, 3)] := by decide +kernel

/-- L1-8: one error, of the unresolved label, on its line. -/
theorem test_assemble_unresolved :
    (assemble "JMP U".toList).errors.map (fun e => (e.line, e.kind)) = [(1, .unresolvedLabel)] := by decide +kernel

/-- Log 27: labels are told apart by case, and IP is no reserved name. -/
theorem test_assemble_label_names :
    (assemble "ip:\nL:\nl:".toList).labels.map Prod.fst = ["ip".toList, "L".toList, "l".toList] ∧
    (assemble "ax:\nL:\nL:".toList).errors.map (fun e => (e.line, e.kind)) =
      [(1, .invalidLabel), (3, .duplicateLabel)] := by decide +kernel

/-- Log 28: one error a line in pass 1, one a label in pass 2. -/
theorem test_assemble_errors_a_line :
    (assemble "MOV [AX],[BX]\nMOV U,V".toList).errors.map (fun e => (e.line, e.kind)) =
      [(1, .invalidOperand), (2, .unresolvedLabel), (2, .unresolvedLabel)] := by decide +kernel

/-- The operand forms of R86. -/
theorem test_assemble_literals :
    tokenLiteral "0x1F".toList = some 31 ∧ tokenLiteral "1Fh".toList = some 31 ∧ tokenLiteral "31".toList = some 31 ∧
    tokenLiteral "L1".toList = none := by decide +kernel

/-! Witnesses: a state and operands that meet the hypotheses of each statement that has any -/

theorem witness_RecordDecodeInvertsEncode : decodeRecord .ret .none .none = .ok .ret := by decide

theorem witness_DecodeAdmitsExactlyTheListedShapes :
    shapeAdmitted .mul (.imm 3) .none = true ∧ shapeAdmitted .mul .none .none = false := by decide

theorem witness_ImageDecodeIsSound : decodeImage [0xB9, 0x05, 0x00, 0xF4] = .ok (.movImm .cx 5, [0xF4]) := by decide

theorem witness_RegisterWriteThenRead : Reg.es ≠ Reg.ip := by decide

/-- 998 entries, the most the log clause allows. -/
theorem witness_WordAccessIsTwoBytesLittleEndian (e : Access) :
    ({ State.reset with accessLog := List.replicate 998 e } : State).accessLog.length ≤ 998 :=
  List.length_replicate.le

theorem witness_MemoryIsCanonical : Memory.wf [(0, 1), (0xFFFFF, 0xFF)] = true ∧
    ∀ a, Memory.read [(0, 1), (0xFFFFF, 0xFF)] a = Memory.read [(0, 1), (0xFFFFF, 0xFF)] a := ⟨by decide, fun _ => rfl⟩

/-- The two clauses at their boundary: 999 entries and 1000. -/
theorem witness_AccessLogIsBoundedFifo (e : Access) :
    (List.replicate 999 e).length < 1000 ∧ (List.replicate 1000 e).length = 1000 :=
  ⟨by rw [List.length_replicate]; decide, List.length_replicate⟩

theorem witness_PopTakesTheStackTop : OpReg.ss ≠ OpReg.sp := by decide

theorem witness_DivLeavesQuotientAndRemainder :
    (stateWith [(.bx, 1)] [] [] 2).reg OpReg.bx.toReg ≠ 0 ∧ (0xFFFF : Word) ≠ 0 := by decide

theorem witness_DivByZeroHalts : (stateWith [(.ax, 1)] [] [] 2).reg OpReg.bx.toReg = 0 := by decide

/-- JLE: each side of its disjunction alone, and neither. -/
theorem witness_ConditionalJumpsFollowTheTable :
    ((stateWith [] [.zf] [] 3).flag .zf = true ∧ (stateWith [] [.zf] [] 3).flag .sf = (stateWith [] [.zf] [] 3).flag .of) ∧
    ((stateWith [] [.of] [] 3).flag .zf = false ∧ (stateWith [] [.of] [] 3).flag .sf ≠ (stateWith [] [.of] [] 3).flag .of) ∧
    ((stateWith [] [.sf, .of] [] 3).flag .zf = false ∧
      (stateWith [] [.sf, .of] [] 3).flag .sf = (stateWith [] [.sf, .of] [] 3).flag .of) := by decide

theorem witness_LoopCountsDownAndBranches :
    seen (exec (.loop 9) (stateWith [(.cx, 2)] [] [] 3)) (fun t => decide ((t.reg .cx).toNat ≠ 0)) = some true ∧
    seen (exec (.loop 9) (stateWith [(.cx, 1)] [] [] 3)) (fun t => decide ((t.reg .cx).toNat = 0)) = some true := by decide

theorem witness_OnlyTheTablesAreWritten : ∃ t, exec (.addReg .ax .bx) State.reset = .next t := ⟨_, rfl⟩

theorem witness_OnlyMulWritesOverflow : (∃ t, exec .nop State.reset = .next t) ∧ (∀ r, Instr.nop ≠ .mulReg r) ∧
    (∀ n, Instr.nop ≠ .mulImm n) ∧ ∃ t, exec (.mulReg .bx) State.reset = .next t :=
  ⟨⟨_, rfl⟩, by simp, by simp, ⟨_, rfl⟩⟩

theorem witness_CarryIsReadByNoInstruction : (∃ t, exec (.cmpImm .ax 1) State.reset = .next t) ∧
    (∃ u, exec (.cmpImm .ax 1) (State.reset.setFlag .cf true) = .next u) ∧ Flag.cf ∈ writtenFlags (.cmpImm .ax 1) :=
  ⟨⟨_, rfl⟩, ⟨_, rfl⟩, by decide⟩

theorem witness_OnlyStackInstructionsAccessMemory : (∃ t, exec .ret State.reset = .next t) ∧ accessesMemory .ret = true ∧
    State.reset.accessLog = [] ∧ accessesMemory .hlt = false ∧ storesMemory .ret = false :=
  ⟨⟨_, rfl⟩, rfl, rfl, rfl, rfl⟩

theorem witness_MarksFollowTheDefaultPolicy : (∃ t, exec (.divReg .bx) State.reset = .next t) ∧
    State.reset.ctx.changedRegs = [] ∧ State.reset.ctx.changedFlags = [] ∧ divisorIsZero State.reset (.divReg .bx) ∧
    ¬ divisorIsZero State.reset (.divImm 3) := ⟨⟨_, rfl⟩, rfl, rfl, rfl, by simp [divisorIsZero]⟩

theorem witness_StackRoundTrips : (∃ t u, exec (.push .sp) State.reset = .next t ∧ exec (.pop .sp) t = .next u) ∧
    ∃ t u, exec (.call 9) State.reset = .next t ∧ exec .ret t = .next u := ⟨⟨_, _, rfl, rfl⟩, ⟨_, _, rfl, rfl⟩⟩

/-- For StepRunsTheDecodedInstruction, HaltHasExactlyItsCauses, StepAppendsOneTraceRecord, BusListOfAStep: records of one, two and three bytes. -/
theorem witness_StepRunsTheDecodedInstruction (i : Instr) (h : i = .push .ax ∨ i = .xchg .ax .bx ∨ i = .call 9) :
    (ready i).cpu.halted = false ∧ (ready i).awaitingLoad = false ∧ (ready i).fetch = some (recordOf i) ∧
      (recordOf i).decode = .ok i ∧ ∃ t, step (ready i) = .next t := by
  rcases h with rfl | rfl | rfl <;> exact ⟨rfl, rfl, rfl, rfl, ⟨_, rfl⟩⟩

/-- A halted machine, a handler run on it, and a host call that is neither a reset nor a load. -/
theorem witness_HaltedMachineStaysAsItIs : State.reset.halt.cpu.halted = true ∧
    (∃ t, exec .nop State.reset.halt = .next t) ∧ (∃ t, hostCall (.setReg .ip 0xFFFF) State.reset.halt = .next t) ∧
    HostCall.setReg .ip 0xFFFF ≠ .reset ∧ ∀ p, HostCall.setReg .ip 0xFFFF ≠ .loadProgram p :=
  ⟨rfl, ⟨_, rfl⟩, ⟨_, rfl⟩, by simp, by simp⟩

theorem witness_FetchMissOnlyHalts : State.reset.cpu.halted = false ∧ State.reset.awaitingLoad = false ∧
    State.reset.fetch = none := ⟨rfl, rfl, rfl⟩

/-- The three clauses: a fault, the unknown path, and an instruction that ends normally. -/
theorem witness_DescriptionTellsTheOutcome : divisorIsZero (ready (.divImm 0)) (.divImm 0) ∧
    (ready (.divImm 0)).fetch = some (recordOf (.divImm 0)) ∧ (recordOf (.divImm 0)).decode = .ok (.divImm 0) ∧
    (∃ t, step (ready (.divImm 0)) = .next t) ∧ (∃ t, step (ready (.xchg .ax .bx)) = .next t) ∧
    ¬ divisorIsZero (ready .nop) .nop ∧ ∃ t, step (ready .nop) = .next t :=
  ⟨rfl, rfl, rfl, ⟨_, rfl⟩, ⟨_, rfl⟩, id, ⟨_, rfl⟩⟩

/-- A ready machine with one admitted record meets the invariant. -/
theorem ready_meets_the_invariant (i : Instr) (h : (recordOf i).wf = true) : Invariant (ready i) := by
  refine ⟨rfl, Nat.zero_le _, rfl, rfl, ?_, rfl, fun _ => rfl, by simp [ready, State.reset], by simp [ready, State.reset]⟩
  intro e he
  rw [List.mem_singleton.1 he]
  exact ⟨h, rfl⟩

/-- The three clauses: a fetch miss, HLT, a division by zero. -/
theorem witness_HaltCauseIsReadOffTheTrace :
    (Invariant ((ready .nop).setReg .ip 1) ∧ ((ready .nop).setReg .ip 1).fetch = none ∧
      ∃ t, step ((ready .nop).setReg .ip 1) = .next t ∧ t.cpu.halted = true) ∧
    (Invariant (ready .hlt) ∧ (recordOf .hlt).decode = .ok .hlt ∧ ∃ t, step (ready .hlt) = .next t ∧ t.cpu.halted = true) ∧
    (Invariant (ready (.divImm 0)) ∧ divisorIsZero (ready (.divImm 0)) (.divImm 0) ∧
      ∃ t, step (ready (.divImm 0)) = .next t ∧ t.cpu.halted = true) := by
  have h := ready_meets_the_invariant .nop rfl
  exact ⟨⟨⟨h.1, h.2, h.3, h.4, h.5, h.6, h.7, h.8, h.9⟩, rfl, _, rfl, rfl⟩,
    ⟨ready_meets_the_invariant .hlt rfl, rfl, _, rfl, rfl⟩,
    ⟨ready_meets_the_invariant (.divImm 0) rfl, rfl, _, rfl, rfl⟩⟩

/-- For StepKeepsTheInvariant and StepIsTotal. -/
theorem witness_StepKeepsTheInvariant : Invariant (ready .nop) ∧ (ready .nop).awaitingLoad = false ∧
    ∃ t, step (ready .nop) = .next t := ⟨ready_meets_the_invariant .nop rfl, rfl, _, rfl⟩

/-- Both clauses: a load that is admitted, and a host write in range. -/
theorem witness_HostCallsKeepTheInvariant : Invariant (ready .nop) ∧
    (∃ t, hostCall (.loadProgram [recordOf .nop]) (ready .nop) = .next t) ∧
    ∃ t, hostCall (.setData 0xFFFFF 0xFF) (ready .nop) = .next t :=
  ⟨ready_meets_the_invariant .nop rfl, ⟨_, rfl⟩, ⟨_, rfl⟩⟩

theorem witness_StoresNeverReachFetch : ∃ t, step (ready (.push .ax)) = .next t := ⟨_, rfl⟩

theorem witness_TraceNeverInfluencesAStep : SameButTrace (ready .nop) (ready .nop) := ⟨[], rfl⟩

/-- For the four statements about a load. -/
theorem witness_LoadPlacesEveryRecord : programWf [recordOf (.call 9), recordOf .hlt] = true ∧
    (∃ t, State.reset.loadProgram [recordOf (.call 9), recordOf .hlt] = .next t) ∧ 3 < programSize [recordOf (.call 9), recordOf .hlt] ∧
    [recordOf (.call 9), recordOf .hlt] = [recordOf (.call 9)] ++ recordOf .hlt :: [] := ⟨rfl, ⟨_, rfl⟩, by decide, rfl⟩

theorem witness_LoadRefusesInadmissiblePrograms : programWf [{ recordOf .nop with bytes := [] }] = false := by decide

/-- A ready machine whose step answers, one whose step is refused, and a halted one. -/
theorem witness_RunIsItsSteps : ((ready .nop).cpu.halted = false ∧ ∃ t, run 1 (ready .nop) = .next t) ∧
    (State.reset.hostReset.cpu.halted = false ∧ run 1 State.reset.hostReset = .refused .stepAfterReset) ∧
    State.reset.halt.cpu.halted = true := ⟨⟨rfl, _, rfl⟩, ⟨rfl, rfl⟩, rfl⟩

theorem witness_ResetValues : Reg.ip ≠ Reg.sp := by decide

/-- A machine after `reset()`, and two calls that complete on it: a register write, and a run with no budget. -/
theorem witness_HostResetRestoresDefaults :
    State.reset.hostReset.cpu.halted = false ∧ State.reset.hostReset.awaitingLoad = true ∧
    (∀ p, HostCall.setReg .ax 1 ≠ .loadProgram p) ∧ (∃ t, hostCall (.setReg .ax 1) State.reset.hostReset = .next t) ∧
    ∃ t, hostCall (.run 0) State.reset.hostReset = .next t := ⟨rfl, rfl, by simp, ⟨_, rfl⟩, ⟨_, rfl⟩⟩

theorem witness_AssembledOffsetsAreCumulative : (assembleWith imageBytes "NOP\nHLT".toList).errors = [] ∧
    (assembleWith imageBytes "NOP\nHLT".toList).records = [Instr.nop.toRecord 0] ++ Instr.hlt.toRecord 1 :: [] := by
  decide +kernel

end Sys2Proof.Tests
end

/-! PROOF. What a handler can do, said once over all instructions: how it ends, the registers and flags it may write, its
memory and its log, and what CF and the trace have no part in. -/

namespace Sys2Proof.Machine

/-! ### The two operations that choose between outcomes -/

@[simp] theorem branch_flag (c : Bool) (x : Word) (s : State) (f : Flag) : (branch c x s).flag f = s.flag f :=
  branch_cases (P := fun t => t.flag f = s.flag f) rfl rfl

@[simp] theorem branch_halted (c : Bool) (x : Word) (s : State) : (branch c x s).cpu.halted = s.cpu.halted :=
  branch_cases (P := fun t => t.cpu.halted = s.cpu.halted) rfl rfl

@[simp] theorem branch_result (c : Bool) (x : Word) (s : State) : (branch c x s).ctx.result = s.ctx.result :=
  branch_cases (P := fun t => t.ctx.result = s.ctx.result) rfl rfl

@[simp] theorem branch_mem (c : Bool) (x : Word) (s : State) : (branch c x s).mem = s.mem :=
  branch_cases (P := fun t => t.mem = s.mem) rfl rfl

@[simp] theorem branch_accessLog (c : Bool) (x : Word) (s : State) : (branch c x s).accessLog = s.accessLog :=
  branch_cases (P := fun t => t.accessLog = s.accessLog) rfl rfl

theorem branch_reg_of_ne_ip {q : Reg} (hq : q ≠ .ip) (c : Bool) (x : Word) (s : State) :
    (branch c x s).reg q = s.reg q :=
  branch_cases (P := fun t => t.reg q = s.reg q) (by simp [hq]) (by simp [hq])

/-- Everything `divBy` can do, said of any property of its outcome. -/
theorem divBy_cases {P : State → Prop} {d : Word} {s : State}
    (fault : d = 0 → P (s.raiseFault .divZero "division by zero"))
    (quotient : ∀ q rem : Word, P ((s.assign .ax q).assign .dx rem).advance) : P (divBy d s) := by
  by_cases hd : d = 0
  · subst hd
    rw [divBy_zero]
    exact fault rfl
  · rw [divBy_nonzero hd]
    exact quotient _ _

@[simp] theorem divBy_flag (d : Word) (s : State) (f : Flag) : (divBy d s).flag f = s.flag f :=
  divBy_cases (P := fun t => t.flag f = s.flag f) (fun _ => rfl) fun _ _ => rfl

@[simp] theorem divBy_mem (d : Word) (s : State) : (divBy d s).mem = s.mem :=
  divBy_cases (P := fun t => t.mem = s.mem) (fun _ => rfl) fun _ _ => rfl

@[simp] theorem divBy_accessLog (d : Word) (s : State) : (divBy d s).accessLog = s.accessLog :=
  divBy_cases (P := fun t => t.accessLog = s.accessLog) (fun _ => rfl) fun _ _ => rfl

theorem divBy_reg_of_ne {q : Reg} (hip : q ≠ .ip) (hax : q ≠ .ax) (hdx : q ≠ .dx) (d : Word) (s : State) :
    (divBy d s).reg q = s.reg q :=
  divBy_cases (P := fun t => t.reg q = s.reg q) (fun _ => rfl) fun _ _ => by simp [hip, hax, hdx]

/-! ### What a handler writes -/

/-- R24: a register that is no destination of the instruction, and not IP, keeps its value. -/
theorem exec_reg_of_not_written {i : Instr} {s t : State} (h : exec i s = .next t) {q : Reg} (hip : q ≠ .ip)
    (hq : q ∉ writtenRegs i) : t.reg q = s.reg q := by
  cases i <;> injection h with h <;> subst h
  all_goals simp only [writtenRegs, List.mem_cons, List.not_mem_nil, or_false, not_or] at hq
  case je | jz | jne | jnz | jg | jge | jl | jle => exact branch_reg_of_ne_ip hip _ _ _
  case loop => simp [branch_reg_of_ne_ip hip, hq]
  case divReg | divImm => exact divBy_reg_of_ne hip hq.1 hq.2 _ _
  case hlt => rfl
  all_goals simp [hip, hq]

/-- R28: a flag outside the instruction's row of the table keeps its value. -/
theorem exec_flag_of_not_written {i : Instr} {s t : State} (h : exec i s = .next t) {f : Flag}
    (hf : f ∉ writtenFlags i) : t.flag f = s.flag f := by
  cases i <;> injection h with h <;> subst h
  all_goals simp only [writtenFlags, List.mem_cons, List.not_mem_nil, or_false, not_or] at hf
  case hlt => rfl
  all_goals simp [hf]

theorem overflow_mem_writtenFlags {i : Instr} (h : Flag.of ∈ writtenFlags i) :
    (∃ r, i = .mulReg r) ∨ ∃ n, i = .mulImm n := by
  cases i
  case mulReg r => exact .inl ⟨r, rfl⟩
  case mulImm n => exact .inr ⟨n, rfl⟩
  all_goals simp [writtenFlags] at h

/-- R50: every handler keeps memory in its canonical form; PUSH and CALL are the ones that write it. -/
theorem exec_mem_wf {i : Instr} {s t : State} (h : exec i s = .next t) (hm : Memory.wf s.mem = true) :
    Memory.wf t.mem = true := by
  cases i <;> injection h with h <;> subst h
  case push r => exact State.push16_wf hm _
  case call x => exact State.push16_wf hm _
  case hlt => exact hm
  all_goals simpa using hm

/-- R72: every instruction but the four of the stack leaves the log as it was. -/
theorem exec_accessLog_of_no_access {i : Instr} {s t : State} (h : exec i s = .next t)
    (hi : accessesMemory i = false) : t.accessLog = s.accessLog := by
  cases i <;> injection h with h <;> subst h
  case push | pop | call | ret => cases hi
  case hlt => rfl
  all_goals simp

/-- R72: each of the four stack instructions pushes two log entries. -/
theorem exec_accessLog_of_access {i : Instr} {s t : State} (h : exec i s = .next t) (hi : accessesMemory i = true) :
    ∃ e f, t.accessLog = pushAccess (pushAccess s.accessLog e) f := by
  cases i <;> injection h with h <;> subst h
  case push | pop | call | ret => exact ⟨_, _, rfl⟩
  all_goals cases hi

/-- R130: from an empty log, a handler ends with no entry or with two. -/
theorem exec_accessLog_length {i : Instr} {s t : State} (h : exec i s = .next t) (hl : s.accessLog = []) :
    t.accessLog.length = if accessesMemory i then 2 else 0 := by
  cases hi : accessesMemory i with
  | false =>
    rw [exec_accessLog_of_no_access h hi, hl]
    rfl
  | true =>
    obtain ⟨e, f, hlog⟩ := exec_accessLog_of_access h hi
    rw [hlog, hl, pushAccess_nil, pushAccess_one]
    rfl

/-! ### How a handler ends -/

/-- The ways a handler can end (40_step_cycle.md R125, R128, R129; 60_exceptions.md R235): it runs to its end, takes the
unknown-mnemonic path, halts by HLT, or faults on a divisor that is 0. -/
inductive HandlerEnd (i : Instr) (s t : State) : Prop
  | ran (other : i ≠ .hlt) (halted : t.cpu.halted = s.cpu.halted) (result : t.ctx.result = s.ctx.result)
  | unknown (other : i ≠ .hlt) (outcome : t = s.unknownInstruction)
  | hlt (instr : i = .hlt) (outcome : t = s.halt)
  | faulted (zero : divisorIsZero s i) (outcome : t = s.raiseFault .divZero "division by zero")

theorem divBy_ends {i : Instr} {d : Word} {s : State} (hi : i ≠ .hlt) (hd : d = 0 → divisorIsZero s i) :
    HandlerEnd i s (divBy d s) :=
  divBy_cases (fun h0 => .faulted (hd h0) rfl) fun _ _ => .ran hi rfl rfl

theorem exec_ends {i : Instr} {s t : State} (h : exec i s = .next t) : HandlerEnd i s t := by
  cases i <;> injection h with h <;> subst h
  case hlt => exact .hlt rfl rfl
  case xchg | unknown => exact .unknown nofun rfl
  case divReg | divImm => exact divBy_ends nofun id
  all_goals exact .ran nofun (by simp) (by simp)

/-- R31: no handler makes a halted machine ready. -/
theorem exec_keeps_halted {i : Instr} {s t : State} (h : exec i s = .next t) (hs : s.cpu.halted = true) :
    t.cpu.halted = true := by
  cases exec_ends h with
  | ran _ halted _ => exact halted.trans hs
  | unknown _ outcome => exact outcome ▸ hs
  | hlt _ outcome => exact outcome ▸ rfl
  | faulted _ outcome => exact outcome ▸ rfl

/-- R138: a handler that starts ready and with no result leaves the machine halted exactly if it is HLT or its result is
a fault. -/
theorem exec_halted_iff {i : Instr} {s t : State} (h : exec i s = .next t) (hs : s.cpu.halted = false)
    (hd : s.ctx.result = .done) :
    t.cpu.halted = true ↔ i = .hlt ∨ ∃ kind text, t.ctx.result = .raised kind text := by
  cases exec_ends h with
  | ran other halted result => simp [other, halted, hs, result, hd]
  | unknown other outcome => simp [other, outcome, hs]
  | hlt instr outcome => simp [instr, outcome]
  | faulted _ outcome => simp [outcome]

/-! ### Handlers and the carry -/

theorem branch_setCarry (c : Bool) (x : Word) (s : State) (b : Bool) :
    branch c x (s.setFlag .cf b) = (branch c x s).setFlag .cf b := by
  cases c <;> rfl

theorem divBy_setCarry (d : Word) (s : State) (b : Bool) :
    divBy d (s.setFlag .cf b) = (divBy d s).setFlag .cf b := by
  by_cases hd : d = 0
  · subst hd
    rw [divBy_zero, divBy_zero]
    rfl
  · rw [divBy_nonzero hd, divBy_nonzero hd]
    rfl

/-- R28: an instruction that writes CF comes to the same state whatever CF was. -/
theorem exec_setCarry_of_written {i : Instr} (hi : Flag.cf ∈ writtenFlags i) (s : State) (b : Bool) :
    exec i (s.setFlag .cf b) = exec i s := by
  cases i
  case addReg | addImm | subReg | subImm | andReg | andImm | orReg | orImm | xorReg | xorImm | cmpReg | cmpImm | mulReg |
    mulImm => rfl
  all_goals simp [writtenFlags] at hi

/-- R28: an instruction that does not write CF carries it through, and does the same otherwise. -/
theorem exec_setCarry_of_not_written {i : Instr} (hi : Flag.cf ∉ writtenFlags i) {s t : State}
    (h : exec i s = .next t) (b : Bool) : exec i (s.setFlag .cf b) = .next (t.setFlag .cf b) := by
  cases i <;> injection h with h <;> subst h
  case addReg | addImm | subReg | subImm | andReg | andImm | orReg | orImm | xorReg | xorImm | cmpReg | cmpImm | mulReg |
    mulImm => simp [writtenFlags] at hi
  case je | jz | jne | jnz | jg | jge | jl | jle => exact congrArg _ (branch_setCarry _ _ _ _)
  case loop x =>
    exact congrArg Host.Outcome.next (branch_setCarry _ x (s.assign .cx (w16 ((s.reg .cx).toNat - 1 : Int))) b)
  case divReg | divImm => exact congrArg _ (divBy_setCarry _ _ _)
  all_goals rfl

/-! ### Handlers and the trace -/

theorem branch_withTrace (c : Bool) (x : Word) (s : State) (tr : List TraceRecord) :
    branch c x { s with trace := tr } = { branch c x s with trace := tr } := by
  cases c <;> rfl

theorem divBy_withTrace (d : Word) (s : State) (tr : List TraceRecord) :
    divBy d { s with trace := tr } = { divBy d s with trace := tr } := by
  by_cases hd : d = 0
  · subst hd
    rw [divBy_zero, divBy_zero]
    rfl
  · rw [divBy_nonzero hd, divBy_nonzero hd]
    rfl

/-- R36: a handler does the same whatever the trace, and carries the trace through. -/
theorem exec_withTrace {i : Instr} {s t : State} (h : exec i s = .next t) (tr : List TraceRecord) :
    exec i { s with trace := tr } = .next { t with trace := tr } := by
  cases i <;> injection h with h <;> subst h
  case je | jz | jne | jnz | jg | jge | jl | jle => exact congrArg _ (branch_withTrace _ _ _ _)
  case loop x =>
    exact congrArg Host.Outcome.next (branch_withTrace _ x (s.assign .cx (w16 ((s.reg .cx).toNat - 1 : Int))) tr)
  case divReg | divImm => exact congrArg _ (divBy_withTrace _ _ _)
  all_goals rfl

end Sys2Proof.Machine

/-! PROOF. The invariant over steps and calls of the host. -/

namespace Sys2Proof.Machine

/-! ### Trace records -/

theorem busOf_length (a : PhysAddr) (r : Record) (accesses : List Access) :
    (busOf a r accesses).length = 2 + (if r.size > 1 then 2 else 0) + 2 * accesses.length := by
  have hpairs : (accesses.flatMap accessEvents).length = 2 * accesses.length := by
    induction accesses with
    | nil => rfl
    | cons e rest ih => simp [accessEvents, ih]; omega
  have hoperand : (operandFetchEvents a r).length = if r.size > 1 then 2 else 0 := by
    unfold operandFetchEvents
    split <;> rfl
  simp [busOf, opcodeFetchEvents, hpairs, hoperand]
  omega

theorem fetchCrumbs_length (s : State) (r : Record) : (fetchCrumbs s r).length = if r.size > 1 then 2 else 1 := by
  unfold fetchCrumbs
  split <;> rfl

theorem describe_fault_iff (r : Record) (before after : CpuState) (result : HandlerResult) :
    (∃ kind text, describe r before after result = .fault kind text) ↔ ∃ kind text, result = .raised kind text := by
  cases result <;> simp [describe]

theorem mnemonic_eq_hlt_iff (i : Instr) : i.mnemonic = .hlt ↔ i = .hlt := by
  cases i <;> simp [Instr.mnemonic]

/-- The record of every step from a ready machine is consistent. -/
theorem traceRecord_consistent {s u : State} {r : Record} {i : Instr} (hs : s.cpu.halted = false)
    (hr : r.decode = .ok i) (hu : exec i (s.beginStep r) = .next u) : (traceRecord s r u).Consistent where
  notHaltedBefore := hs
  sameCycles := (exec_untouched hu).cycles
  accessCount := by
    have hlog : u.accessLog.length = if accessesMemory i then 2 else 0 := exec_accessLog_length hu rfl
    show u.accessLog.length = 0 ∨ u.accessLog.length = 2
    rw [hlog]
    cases accessesMemory i
    · exact .inl rfl
    · exact .inr rfl
  busLength := busOf_length _ _ _
  crumbCount := fetchCrumbs_length _ _
  haltedAfter := by
    have hmn : r.mn = .hlt ↔ i = .hlt := (of_record_decode hr).1 ▸ mnemonic_eq_hlt_iff i
    exact (exec_halted_iff hu hs rfl).trans (or_congr hmn.symm (describe_fault_iff _ _ _ _).symm)

/-! ### The invariant -/

/-- A change of registers, flags and bytes, with the log bounded, memory canonical and no halt cleared, keeps the
invariant. -/
theorem Invariant.of_kept {s t : State} (inv : Invariant s) (hmem : Memory.wf t.mem = true)
    (hlog : t.accessLog.length ≤ 1000) (histore : t.istore = s.istore) (htrace : t.trace = s.trace)
    (hawait : t.awaitingLoad = s.awaitingLoad) (hctx : t.ctx = s.ctx) (hcycles : t.cpu.cycles = s.cpu.cycles)
    (hhalted : s.cpu.halted = true → t.cpu.halted = true) : Invariant t where
  memory := hmem
  log := hlog
  storeRising := histore ▸ inv.storeRising
  storeInRange := histore ▸ inv.storeInRange
  records := histore ▸ inv.records
  context := hctx.trans inv.context
  traceCount h := by rw [htrace, hcycles, inv.traceCount (hawait ▸ h)]
  traceRecords := htrace ▸ inv.traceRecords
  lastRecord h rec hlast hrec := hhalted (inv.lastRecord (hawait ▸ h) rec (htrace ▸ hlast) hrec)

theorem State.halt_invariant {s : State} (inv : Invariant s) : Invariant s.halt :=
  inv.of_kept inv.memory inv.log rfl rfl rfl rfl rfl fun _ => rfl

/-- A handler between `beginStep` and `endStep` keeps the invariant. -/
theorem State.endStep_invariant {s u : State} {r : Record} {i : Instr} (inv : Invariant s) (hs : s.cpu.halted = false)
    (hawait : s.awaitingLoad = false) (hr : r.decode = .ok i) (hu : exec i (s.beginStep r) = .next u) :
    Invariant (u.endStep s r) := by
  have kept : Untouched (s.beginStep r) u := exec_untouched hu
  have hstore : u.istore = s.istore := kept.istore
  have htrace : u.trace = s.trace := kept.trace
  have hcycles : u.cpu.cycles = s.cpu.cycles := kept.cycles
  have hlog : u.accessLog.length = if accessesMemory i then 2 else 0 := exec_accessLog_length hu rfl
  have hmem : Memory.wf u.mem = true := exec_mem_wf hu inv.memory
  exact
    { memory := hmem
      log := by
        show u.accessLog.length ≤ 1000
        rw [hlog]
        split <;> omega
      storeRising := hstore ▸ inv.storeRising
      storeInRange := hstore ▸ inv.storeInRange
      records := hstore ▸ inv.records
      context := rfl
      traceCount := fun _ => by
        show (u.trace ++ [traceRecord s r u]).length = u.cpu.cycles + 1
        rw [List.length_append, htrace, hcycles, inv.traceCount hawait]
        rfl
      traceRecords := fun rec hrec => by
        rcases List.mem_append.1 hrec with hold | hnew
        · exact inv.traceRecords rec (htrace ▸ hold)
        · exact List.mem_singleton.1 hnew ▸ traceRecord_consistent hs hr hu
      lastRecord := fun _ rec hlast hrec => by
        have hlast : traceRecord s r u = rec := by simpa [State.endStep] using hlast
        subst hlast
        exact hrec }

theorem step_keeps_invariant {s t : State} (inv : Invariant s) (h : step s = .next t) : Invariant t := by
  cases hs : s.cpu.halted with
  | true =>
    rw [step_of_halted hs] at h
    cases h
    exact inv
  | false =>
    obtain ⟨hawait, ⟨-, rfl⟩ | ⟨r, i, u, -, hr, hu, rfl⟩⟩ := step_cases hs h
    · exact State.halt_invariant inv
    · exact State.endStep_invariant inv hs hawait hr hu

theorem run_keeps_invariant (n : Nat) {s t : State} (inv : Invariant s) (h : run n s = .next t) : Invariant t := by
  induction n generalizing s with
  | zero => cases h; exact inv
  | succ n ih =>
    unfold run at h
    split at h
    · cases h; exact inv
    · split at h
      · rename_i u hu
        exact ih (step_keeps_invariant inv hu) h
      · cases h
      · cases h

/-! ### The host's accesses -/

theorem of_hostSetReg {s t : State} {r : Reg} {v : Nat} (h : s.hostSetReg r v = .next t) :
    v ≤ 0xFFFF ∧ t = s.setReg r (BitVec.ofNat 16 v) := by
  unfold State.hostSetReg at h
  split at h
  · cases h; exact ⟨‹_›, rfl⟩
  · cases h

theorem of_hostSetData {s t : State} {a v : Nat} (h : s.hostSetData a v = .next t) :
    (a ≤ 0xFFFFF ∧ v ≤ 0xFF) ∧ t = s.pokeByte (BitVec.ofNat 20 a) (BitVec.ofNat 8 v) := by
  unfold State.hostSetData at h
  split at h
  · cases h; exact ⟨‹_›, rfl⟩
  · cases h

theorem State.setReg_invariant {s : State} (inv : Invariant s) (r : Reg) (v : Word) : Invariant (s.setReg r v) :=
  inv.of_kept inv.memory inv.log rfl rfl rfl rfl rfl id

theorem State.pokeByte_invariant {s : State} (inv : Invariant s) (a : PhysAddr) (v : Byte) :
    Invariant (s.pokeByte a v) :=
  inv.of_kept (State.pokeByte_wf inv.memory a v) inv.log rfl rfl rfl rfl rfl id

theorem State.logPush_invariant {s : State} (inv : Invariant s) (e : Access) : Invariant (s.logPush e) :=
  inv.of_kept inv.memory (pushAccess_length_le inv.log) rfl rfl rfl rfl rfl id

theorem State.readByte_invariant {s : State} (inv : Invariant s) (a : PhysAddr) : Invariant (s.readByte a) :=
  State.logPush_invariant inv _

theorem State.writeByte_invariant {s : State} (inv : Invariant s) (a : PhysAddr) (v : Byte) :
    Invariant (s.writeByte a v) :=
  State.logPush_invariant (State.pokeByte_invariant inv a v) _

theorem State.readWord_invariant {s : State} (inv : Invariant s) (a : PhysAddr) : Invariant (s.readWord a) :=
  State.readByte_invariant (State.readByte_invariant inv a) (a + 1)

theorem State.writeWord_invariant {s : State} (inv : Invariant s) (a : PhysAddr) (v : Word) :
    Invariant (s.writeWord a v) :=
  State.writeByte_invariant (State.writeByte_invariant inv a _) (a + 1) _

/-- R73: whether or not the parameter HOST_ACCESS_LOGGED lets an access keep its log entries. -/
theorem State.hostAccess_invariant {s t : State} (inv : Invariant s) (invAfter : Invariant t) :
    Invariant (s.hostAccess t) := by
  unfold State.hostAccess
  split
  · exact invAfter
  · exact invAfter.of_kept invAfter.memory inv.log rfl rfl rfl rfl rfl id

/-! ### Reset and load -/

theorem emptyLog_bounded : ([] : List Access).length ≤ 1000 := by decide

/-- R250: whether or not the parameter RESET_CLEARS_PROGRAM empties the store, the program list and the trace. -/
theorem State.hostReset_invariant {s : State} (inv : Invariant s) : Invariant s.hostReset := by
  unfold State.hostReset
  split
  · exact
      { memory := rfl
        log := emptyLog_bounded
        storeRising := rfl
        storeInRange := rfl
        records := List.forall_mem_nil _
        context := rfl
        traceCount := Bool.noConfusion
        traceRecords := List.forall_mem_nil _
        lastRecord := Bool.noConfusion }
  · exact
      { memory := rfl
        log := emptyLog_bounded
        storeRising := inv.storeRising
        storeInRange := inv.storeInRange
        records := inv.records
        context := rfl
        traceCount := Bool.noConfusion
        traceRecords := inv.traceRecords
        lastRecord := Bool.noConfusion }

theorem RawOperand.isReg_toReg (r : OpReg) : (RawOperand.reg r.toReg).isReg = true := by cases r <;> rfl

theorem RawOperand.ok_toRaw (o : Operand) : o.toRaw.ok = true := by
  cases o with
  | reg r => simp [Operand.toRaw, RawOperand.ok, RawOperand.isReg_toReg]
  | imm n => rfl
  | none => rfl

/-- R82: the record of every instruction has a shape of the table. -/
theorem shapeAdmitted_of_instr (i : Instr) :
    shapeAdmitted i.mnemonic i.operands.1.toRaw i.operands.2.toRaw = true := by
  cases i
  case unknown a b => simp [Instr.mnemonic, Instr.operands, shapeAdmitted, RawOperand.ok_toRaw]
  all_goals simp [Instr.mnemonic, Instr.operands, Operand.toRaw, shapeAdmitted, RawOperand.isReg_toReg,
    RawOperand.isImm, RawOperand.isNone]

/-- R82, R253: a record that decodes is admitted. -/
theorem Record.wf_of_decode {r : Record} {i : Instr} (h : r.decode = .ok i) : r.wf = true := by
  have hsize : r.sizeOk = true := (of_record_decode h).2
  rw [Record.decode, if_pos hsize] at h
  obtain ⟨hmn, hop1, hop2⟩ := of_decodeRecord h
  have hshape : shapeAdmitted r.mn r.op1 r.op2 = true := hmn ▸ hop1 ▸ hop2 ▸ shapeAdmitted_of_instr i
  simp [Record.wf, hshape, hsize]

theorem wf_of_loadRefusal_none {p : List Record} (h : loadRefusal p = none) : ∀ r ∈ p, r.wf = true := by
  induction p with
  | nil => exact List.forall_mem_nil _
  | cons r rest ih =>
    unfold loadRefusal at h
    split at h
    · cases h
    · rename_i i hi
      exact List.forall_mem_cons.2 ⟨Record.wf_of_decode hi, ih h⟩

/-- The address back-patch leaves all of a record but its address, which becomes a physical one (R252). -/
theorem of_mem_patchAddresses {cs : Word} {p : List Record} {off : Nat} {q : Record}
    (h : q ∈ patchAddresses cs off p) : ∃ r ∈ p, ∃ a : PhysAddr, q = { r with addr := a.toNat } := by
  induction p generalizing off with
  | nil => cases h
  | cons r rest ih =>
    rcases List.mem_cons.1 h with rfl | h
    · exact ⟨r, List.mem_cons_self, _, rfl⟩
    · obtain ⟨r', hr', a, rfl⟩ := ih h
      exact ⟨r', List.mem_cons_of_mem r hr', a, rfl⟩

theorem State.insertRecord_invariant {s : State} (inv : Invariant s) {r : Record} (hwf : r.wf = true)
    (haddr : r.addr < 0x100000) : Invariant { s with istore := Table.insert r.addr r s.istore } :=
  { inv with
    storeRising := Table.rising_insert inv.storeRising
    storeInRange := (Table.inRange_iff _).2 fun e he => by
      rcases Table.mem_insert he with rfl | he
      · exact haddr
      · exact (Table.inRange_iff _).1 inv.storeInRange e he
    records := fun e he => by
      rcases Table.mem_insert he with rfl | he
      · exact ⟨hwf, rfl⟩
      · exact inv.records e he }

theorem State.writeImage_invariant (bytes : List Byte) {s : State} (inv : Invariant s) (a : PhysAddr) :
    Invariant (s.writeImage a bytes) := by
  induction bytes generalizing s a with
  | nil => exact inv
  | cons b rest ih => exact ih (State.writeByte_invariant inv a b) (a + 1)

theorem State.loadRecords_invariant (p : List Record) {s : State} (inv : Invariant s)
    (hp : ∀ r ∈ p, r.wf = true ∧ r.addr < 0x100000) : Invariant (s.loadRecords p) := by
  induction p generalizing s with
  | nil => exact inv
  | cons r rest ih =>
    obtain ⟨⟨hwf, haddr⟩, hrest⟩ := List.forall_mem_cons.1 hp
    exact ih (State.writeImage_invariant r.bytes (State.insertRecord_invariant inv hwf haddr) _) hrest

theorem State.clearForLoad_invariant (s : State) (p : List Record) : Invariant (s.clearForLoad p) :=
  ⟨rfl, emptyLog_bounded, rfl, rfl, List.forall_mem_nil _, rfl, fun _ => rfl, List.forall_mem_nil _,
    fun _ rec hlast => by cases hlast⟩

/-- R252: a load answers a machine that meets the invariant, whatever the machine was before. -/
theorem State.loadProgram_invariant {s t : State} {p : List Record} (h : s.loadProgram p = .next t) : Invariant t := by
  unfold State.loadProgram at h
  split at h
  · cases h
  · rename_i hnone
    split at h
    · cases h
      refine State.loadRecords_invariant _ (State.clearForLoad_invariant s _) fun q hq => ?_
      obtain ⟨r, hr, a, rfl⟩ := of_mem_patchAddresses hq
      exact ⟨wf_of_loadRefusal_none hnone r hr, a.isLt⟩
    · cases h

theorem hostCall_keeps_invariant {c : HostCall} {s t : State} (inv : Invariant s) (h : hostCall c s = .next t) :
    Invariant t := by
  cases c with
  | reset => cases h; exact State.hostReset_invariant inv
  | loadProgram p => exact State.loadProgram_invariant h
  | step => exact step_keeps_invariant inv h
  | run n => exact run_keeps_invariant n inv h
  | getMemoryByte a => cases h; exact State.hostAccess_invariant inv (State.readByte_invariant inv _)
  | getMemoryWord a => cases h; exact State.hostAccess_invariant inv (State.readWord_invariant inv _)
  | setMemoryByte a v => cases h; exact State.hostAccess_invariant inv (State.writeByte_invariant inv _ _)
  | setMemoryWord a v => cases h; exact State.hostAccess_invariant inv (State.writeWord_invariant inv _ _)
  | setReg r v => obtain ⟨-, rfl⟩ := of_hostSetReg h; exact State.setReg_invariant inv _ _
  | setData a v => obtain ⟨-, rfl⟩ := of_hostSetData h; exact State.pokeByte_invariant inv _ _

end Sys2Proof.Machine

/-! PROOF. What a step returns, and that the trace is read by nothing. -/

namespace Sys2Proof.Machine

/-! ### What a step returns -/

theorem stepReturn_of_refused {s : State} {why : Refusal} (h : step s = .refused why) : stepReturn s = none := by
  rw [stepReturn, h]

theorem stepReturn_of_kept_trace {s t : State} (h : step s = .next t) (ht : t.trace = s.trace) :
    stepReturn s = none := by
  rw [stepReturn, h]
  simp [ht]

/-- R121: a step that runs a record returns the trace record it appended. -/
theorem stepReturn_of_record {s u : State} {r : Record} (h : step s = .next (u.endStep s r))
    (hu : u.trace = s.trace) : stepReturn s = some (traceRecord s r u) := by
  rw [stepReturn, h]
  simp [State.endStep, hu]

/-! ### The trace -/

/-- The steps from two states come to the same, the trace apart, and return the same record. -/
def StepsAlike (s t : State) : Prop := withoutTrace (step s) = withoutTrace (step t) ∧ stepReturn s = stepReturn t

theorem stepsAlike_of_refused {s t : State} {why : Refusal} (hs : step s = .refused why)
    (ht : step t = .refused why) : StepsAlike s t :=
  ⟨by rw [hs, ht], by rw [stepReturn_of_refused hs, stepReturn_of_refused ht]⟩

theorem stepsAlike_of_kept_trace {s s' t t' : State} (hs : step s = .next s') (ht : step t = .next t')
    (hstrace : s'.trace = s.trace) (httrace : t'.trace = t.trace)
    (same : withoutTrace (.next s') = withoutTrace (.next t')) : StepsAlike s t :=
  ⟨by rw [hs, ht, same], by rw [stepReturn_of_kept_trace hs hstrace, stepReturn_of_kept_trace ht httrace]⟩

/-- R36: on every path of a step, another trace before it changes nothing but the trace after it. -/
theorem stepsAlike_withTrace (s : State) (tr : List TraceRecord) : StepsAlike s { s with trace := tr } := by
  obtain hs | hs := Bool.eq_false_or_eq_true s.cpu.halted
  · exact stepsAlike_of_kept_trace (step_of_halted hs) (step_of_halted hs) rfl rfl rfl
  obtain ha | ha := Bool.eq_false_or_eq_true s.awaitingLoad
  · exact stepsAlike_of_refused (step_of_awaiting hs ha) (step_of_awaiting hs ha)
  cases hf : s.fetch with
  | none => exact stepsAlike_of_kept_trace (step_of_miss hs ha hf) (step_of_miss hs ha hf) rfl rfl rfl
  | some r =>
    cases hr : r.decode with
    | error why =>
      exact stepsAlike_of_refused (step_of_inadmissible hs ha hf hr) (step_of_inadmissible hs ha hf hr)
    | ok i =>
      obtain ⟨u, hu⟩ := exec_completes i (s.beginStep r)
      have hu' : exec i (({ s with trace := tr } : State).beginStep r) = .next { u with trace := tr } :=
        exec_withTrace hu tr
      have hstep := step_of_record hs ha hf hr hu
      have hstep' := step_of_record (s := { s with trace := tr }) hs ha hf hr hu'
      refine ⟨by rw [hstep, hstep']; rfl, ?_⟩
      rw [stepReturn_of_record hstep (exec_untouched hu).trace, stepReturn_of_record hstep' rfl]
      rfl

/-! ### Halted machines -/

theorem run_of_halted {s : State} (h : s.cpu.halted = true) (n : Nat) : run n s = .next s := by
  cases n with
  | zero => rfl
  | succ n => exact if_pos h

/-- R246: a call of the host that is neither `reset` nor `loadProgram` leaves a halted machine halted. -/
theorem hostCall_keeps_halted {c : HostCall} {s t : State} (hs : s.cpu.halted = true) (h : hostCall c s = .next t)
    (hreset : c ≠ .reset) (hload : ∀ p, c ≠ .loadProgram p) : t.cpu.halted = true := by
  have access (u : State) (hu : u.cpu = s.cpu) : (s.hostAccess u).cpu.halted = true := by
    rw [(State.hostAccess_keeps s u).1, hu, hs]
  cases c with
  | reset => exact absurd rfl hreset
  | loadProgram p => exact absurd rfl (hload p)
  | step =>
    cases (step_of_halted hs).symm.trans h
    exact hs
  | run n =>
    cases (run_of_halted hs n).symm.trans h
    exact hs
  | getMemoryByte a => cases h; exact access _ rfl
  | getMemoryWord a => cases h; exact access _ rfl
  | setMemoryByte a v => cases h; exact access _ rfl
  | setMemoryWord a v => cases h; exact access _ rfl
  | setReg r v => obtain ⟨-, rfl⟩ := of_hostSetReg h; exact hs
  | setData a v => obtain ⟨-, rfl⟩ := of_hostSetData h; exact hs

end Sys2Proof.Machine

/-! PROOF. The statements of the state family, each from the lemmas above. -/

namespace Sys2Proof.Machine

/-- Settles O57: a step is nothing, a fetch miss, or a handler between `beginStep` and `endStep`; each keeps the
invariant. -/
theorem stepKeepsTheInvariant : Obligations.StepKeepsTheInvariant :=
  fun _ _ inv h => step_keeps_invariant inv h

/-- Settles O58, by the calls of the host: a run by induction on its budget, a load by induction on its records. -/
theorem hostCallsKeepTheInvariant : Obligations.HostCallsKeepTheInvariant :=
  fun _ _ _ inv h => hostCall_keeps_invariant inv h

/-- Settles O32, from what every handler leaves untouched and the two tables. -/
theorem onlyTheTablesAreWritten : Obligations.OnlyTheTablesAreWritten := by
  intro i s t h
  obtain ⟨cycles, istore, program, trace, awaitingLoad, size⟩ := exec_untouched h
  refine ⟨fun q hq => ?_, fun f hf => exec_flag_of_not_written h hf, cycles, istore, program, trace, awaitingLoad, size⟩
  obtain ⟨hip, hq⟩ := not_or.1 (mt List.mem_cons.2 hq)
  exact exec_reg_of_not_written h hip hq

/-- Settles O33: only the rows of MUL name OF, and `mulBy` gives OF and CF one value. -/
theorem onlyMulWritesOverflow : Obligations.OnlyMulWritesOverflow := by
  refine ⟨fun i s t h hreg himm => exec_flag_of_not_written h fun hof => ?_, fun r n s t h => ?_, rfl⟩
  · obtain ⟨r, rfl⟩ | ⟨n, rfl⟩ := overflow_mem_writtenFlags hof
    · exact hreg r rfl
    · exact himm n rfl
  · rcases h with h | h <;> cases h <;> simp

/-- Settles O34: an instruction that writes CF comes to one state whatever CF was, and any other carries it through. -/
theorem carryIsReadByNoInstruction : Obligations.CarryIsReadByNoInstruction := by
  intro i b s t u ht hu
  by_cases hi : Flag.cf ∈ writtenFlags i
  · cases hu.symm.trans ((exec_setCarry_of_written hi s b).trans ht)
    exact ⟨fun _ => rfl, fun _ _ => rfl, rfl, rfl, rfl, rfl, fun _ => rfl⟩
  · cases hu.symm.trans (exec_setCarry_of_not_written hi ht b)
    exact ⟨fun _ => rfl, fun f hf => by simp [hf], rfl, rfl, rfl, rfl, fun h => absurd h hi⟩

/-- Settles O39: the step and the run stop at once, and no handler and no other call of the host clears the halt. -/
theorem haltedMachineStaysAsItIs : Obligations.HaltedMachineStaysAsItIs :=
  ⟨fun _ n hs => ⟨step_of_halted hs, run_of_halted hs n⟩, fun _ _ _ hs h => exec_keeps_halted h hs,
    fun _ _ _ hs h hreset hload => hostCall_keeps_halted hs h hreset hload, fun _ => rfl⟩

/-- Settles O47, by the paths of a step. -/
theorem traceNeverInfluencesAStep : Obligations.TraceNeverInfluencesAStep := by
  rintro s t ⟨tr, rfl⟩
  exact stepsAlike_withTrace s tr

/-- Settles O7, from the read of a register after a write and the value of `w16`. -/
theorem registerWriteThenRead : Obligations.RegisterWriteThenRead := by
  intro s r q v
  have hmask := w16_toNat v
  refine ⟨?_, fun hq => ?_⟩
  · rw [State.setReg_reg, if_pos rfl]
    omega
  · rw [State.setReg_reg, if_neg hq]

/-- Settles O48, field by field. -/
theorem resetValues : Obligations.ResetValues := by
  refine ⟨fun r hr => ?_, rfl, fun f => ?_, rfl, rfl, fun _ => rfl, rfl, fun _ => rfl, rfl, rfl⟩
  · cases r
    case sp => exact absurd rfl hr
    all_goals rfl
  · cases f <;> rfl

/-- Settles O56: the reset state is a machine cleared for the load of no record. -/
theorem resetMeetsTheInvariant : Obligations.ResetMeetsTheInvariant :=
  State.clearForLoad_invariant State.reset []

end Sys2Proof.Machine

/-! PROOF. The statements of the memory family: the access log over a word, the bytes and the log of each handler, and the
host's accessors. -/

namespace Sys2Proof.Machine

/-! ### The access log -/

theorem pushAccess_of_full {log : List Access} {e : Access} (h : log.length = 1000) :
    pushAccess log e = log.tail ++ [e] := by
  have hne : log ≠ [] := by rintro rfl; cases h
  simp [pushAccess, Config.accessLogCapacity, h, List.tail_append_of_ne_nil hne]

/-- R57, R58: a word's two entries are both kept by a log with room for them. -/
theorem pushAccess_two {log : List Access} {e f : Access} (h : log.length ≤ 998) :
    pushAccess (pushAccess log e) f = log ++ [e, f] := by
  have hfirst : pushAccess log e = log ++ [e] := pushAccess_of_short (by omega)
  have hroom : (log ++ [e]).length < 1000 := by rw [List.length_append, List.length_singleton]; omega
  rw [hfirst, pushAccess_of_short hroom, List.append_assoc, List.singleton_append]

/-! ### Bytes and words -/

theorem State.peekWord_toNat (s : State) (a : PhysAddr) :
    (s.peekWord a).toNat = (s.peekByte (a + 1)).toNat * 256 + (s.peekByte a).toNat :=
  wordOf_toNat _ _

theorem State.writeWord_peekByte_low (s : State) (a : PhysAddr) (v : Word) :
    (s.writeWord a v).peekByte a = lowByte v := by
  rw [State.writeWord_peekByte, if_neg (succ_ne_self a).symm, if_pos rfl]

theorem State.writeWord_peekByte_high (s : State) (a : PhysAddr) (v : Word) :
    (s.writeWord a v).peekByte (a + 1) = highByte v := by
  rw [State.writeWord_peekByte, if_pos rfl]

theorem State.writeWord_keptOutsideWord (s : State) (a : PhysAddr) (v : Word) :
    KeptOutsideWord a s (s.writeWord a v) := by
  intro b hlow hhigh
  rw [State.writeWord_peekByte, if_neg hhigh, if_neg hlow]

/-! ### The accesses of a handler -/

/-- R72: PUSH and CALL are the only handlers that write memory. -/
theorem exec_mem_of_no_store {i : Instr} {s t : State} (h : exec i s = .next t) (hi : storesMemory i = false) :
    t.mem = s.mem := by
  cases i <;> injection h with h <;> subst h
  case push | call => cases hi
  case hlt => rfl
  all_goals simp

theorem exec_peekByte_of_no_store {i : Instr} {s t : State} (h : exec i s = .next t) (hi : storesMemory i = false)
    (a : PhysAddr) : t.peekByte a = s.peekByte a :=
  congrArg (Memory.read · a) (exec_mem_of_no_store h hi)

theorem storesMemory_of_no_access {i : Instr} (h : accessesMemory i = false) : storesMemory i = false := by
  cases i
  case push | call => cases h
  all_goals rfl

/-- R213: PUSH and CALL log the two bytes of the word they store below the top of the stack. -/
theorem exec_accessLog_of_store {i : Instr} {s t : State} (h : exec i s = .next t) (hi : storesMemory i = true) :
    ∃ v, t.accessLog = pushAccess (pushAccess s.accessLog (writeEntry s.pushSlot (lowByte v)))
      (writeEntry (s.pushSlot + 1) (highByte v)) := by
  cases i <;> injection h with h <;> subst h
  case push r => exact ⟨s.reg r.toReg, rfl⟩
  case call => exact ⟨s.returnOffset, rfl⟩
  all_goals cases hi

/-- R214: POP and RET log the two bytes of the word at the top of the stack. -/
theorem exec_accessLog_of_load {i : Instr} {s t : State} (h : exec i s = .next t) (hacc : accessesMemory i = true)
    (hi : storesMemory i = false) :
    t.accessLog = pushAccess (pushAccess s.accessLog (readEntry s s.stackTop)) (readEntry s (s.stackTop + 1)) := by
  cases i <;> injection h with h <;> subst h
  case pop | ret => rfl
  case push | call => cases hi
  all_goals cases hacc

/-! ### What a step keeps -/

/-- R66: a step does nothing, halts, or runs a handler, and none of these touches the store or the program. -/
theorem step_keeps_store {s t : State} (h : step s = .next t) : t.istore = s.istore ∧ t.program = s.program := by
  cases hs : s.cpu.halted with
  | true =>
    cases (step_of_halted hs).symm.trans h
    exact ⟨rfl, rfl⟩
  | false =>
    obtain ⟨-, ⟨-, rfl⟩ | ⟨r, i, u, -, -, hu, rfl⟩⟩ := step_cases hs h
    · exact ⟨rfl, rfl⟩
    · have kept : Untouched (s.beginStep r) u := exec_untouched hu
      exact ⟨kept.istore, kept.program⟩

/-! ### The host's accessors -/

@[simp] theorem State.hostAccess_cpu (s t : State) : (s.hostAccess t).cpu = t.cpu :=
  (State.hostAccess_keeps s t).1

/-- R73: whether an accessor logs has no part in the bytes it leaves. -/
@[simp] theorem State.hostAccess_peekByte (s t : State) (b : PhysAddr) :
    (s.hostAccess t).peekByte b = t.peekByte b := by
  obtain ⟨-, hmem, -⟩ := State.hostAccess_keeps s t
  exact congrArg (Memory.read · b) hmem

@[simp] theorem State.hostAccess_peekWord (s t : State) (a : PhysAddr) :
    (s.hostAccess t).peekWord a = t.peekWord a := by
  simp [State.peekWord]

/-! ### The statements -/

/-- Settles O9, from the bytes of a word after a write and the two pushes of its entries. -/
theorem wordAccessIsTwoBytesLittleEndian : Obligations.WordAccessIsTwoBytesLittleEndian := by
  intro s a v
  refine ⟨s.writeWord_peekWord a v, ?low, ?high, s.writeWord_keptOutsideWord a v,
    fun hroom => ⟨pushAccess_two hroom, pushAccess_two hroom⟩, s.peekWord_toNat a, fun _ => rfl⟩
  case low => rw [State.writeWord_peekByte_low, lowByte_toNat]
  case high => rw [State.writeWord_peekByte_high, highByte_toNat]

/-- Settles O10, by the laws of memory. -/
theorem memoryIsCanonical : Obligations.MemoryIsCanonical :=
  ⟨fun _ a v h => Memory.wf_write h a v, Memory.read_write, fun _ _ => Memory.ext_of_read⟩

/-- Settles O35: the storing forms log a word at the push slot, the loading forms one at the stack top, and every other
instruction neither logs nor writes. -/
theorem onlyStackInstructionsAccessMemory : Obligations.OnlyStackInstructionsAccessMemory := by
  intro i s t h
  refine ⟨fun hacc => ?_, fun hacc hempty => ?_, exec_peekByte_of_no_store h⟩
  · exact ⟨exec_peekByte_of_no_store h (storesMemory_of_no_access hacc), exec_accessLog_of_no_access h hacc⟩
  · cases hstore : storesMemory i with
    | true =>
      obtain ⟨v, hlog⟩ := exec_accessLog_of_store h hstore
      rw [hempty, pushAccess_nil, pushAccess_one] at hlog
      exact ⟨_, _, hlog, rfl, rfl, rfl, rfl, rfl, rfl⟩
    | false =>
      have hlog := exec_accessLog_of_load h hacc hstore
      rw [hempty, pushAccess_nil, pushAccess_one] at hlog
      exact ⟨_, _, hlog, rfl, rfl, rfl, rfl, rfl, rfl⟩

/-- Settles O46, by the paths of a step; the fetch looks up the store alone. -/
theorem storesNeverReachFetch : Obligations.StoresNeverReachFetch :=
  ⟨fun _ _ h => step_keeps_store h, fun _ _ => rfl⟩

/-- Settles O55: an accessor leaves the bytes and the CPU state of its byte or word access, logged or not. -/
theorem hostAccessorsMask : Obligations.HostAccessorsMask := by
  intro s a v
  refine ⟨rfl, rfl, fun b => ⟨?getByte, ?getWord⟩, fun b => ?setByte, ?setWord, ?outside, ?cpuWord, ?cpuByte⟩
  case getByte => exact State.hostAccess_peekByte _ _ _
  case getWord => exact State.hostAccess_peekByte _ _ _
  case setByte => rw [State.setMemoryByte, State.hostAccess_peekByte, State.writeByte_peekByte]
  case setWord => rw [State.setMemoryWord, State.hostAccess_peekWord, State.writeWord_peekWord]
  case outside =>
    intro b hlow hhigh
    rw [State.setMemoryWord, State.hostAccess_peekByte, s.writeWord_keptOutsideWord _ _ b hlow hhigh]
  case cpuWord => exact State.hostAccess_cpu _ _
  case cpuByte => exact State.hostAccess_cpu _ _

/-- Settles O8: the formula is the value of `phys`, and the worked wraps are evaluated. -/
theorem physicalAddressFormula : Obligations.PhysicalAddressFormula :=
  ⟨phys_toNat, by decide, by decide, by decide⟩

/-- Settles O11, below the capacity and at it. -/
theorem accessLogIsBoundedFifo : Obligations.AccessLogIsBoundedFifo :=
  fun _ _ => ⟨pushAccess_of_short, pushAccess_of_full, pushAccess_length_le⟩

end Sys2Proof.Machine

/-! PROOF. The encoding: which records decode, what an image is read as, and where an assembly's records lie. -/

namespace Sys2Proof

/-! ### Records -/

theorem decodeRecord_toRaw {mn : Mnemonic} {a b : Operand} {i : Instr} (h : instrOf mn a b = some i) :
    decodeRecord mn a.toRaw b.toRaw = .ok i := by
  simp [decodeRecord, h]

theorem decodeRecord_encodeRecord (i : Instr) :
    decodeRecord (encodeRecord i).1 (encodeRecord i).2.1 (encodeRecord i).2.2 = .ok i :=
  decodeRecord_toRaw (instrOf_operands i)

theorem encodeRecord_of_decodeRecord {mn : Mnemonic} {op1 op2 : RawOperand} {i : Instr}
    (h : decodeRecord mn op1 op2 = .ok i) : encodeRecord i = (mn, op1, op2) := by
  obtain ⟨rfl, rfl, rfl⟩ := of_decodeRecord h
  rfl

/-! ### The operand shapes of R82 -/

section Shapes

variable (a b : Operand)

theorem shapeRegSource_isSome (byReg : OpReg → OpReg → Instr) (byImm : OpReg → Word → Instr) :
    (shapeRegSource byReg byImm a b).isSome = (a.toRaw.isReg && (b.toRaw.isReg || b.toRaw.isImm)) := by
  rcases a with ⟨⟨⟩⟩ | _ | _ <;> rcases b with ⟨⟨⟩⟩ | _ | _ <;> rfl

theorem shapeReg_isSome (make : OpReg → Instr) :
    (shapeReg make a b).isSome = (a.toRaw.isReg && b.toRaw.isNone) := by
  rcases a with ⟨⟨⟩⟩ | _ | _ <;> cases b <;> rfl

theorem shapeRegReg_isSome (make : OpReg → OpReg → Instr) :
    (shapeRegReg make a b).isSome = (a.toRaw.isReg && b.toRaw.isReg) := by
  rcases a with ⟨⟨⟩⟩ | _ | _ <;> rcases b with ⟨⟨⟩⟩ | _ | _ <;> rfl

theorem shapeSource_isSome (byReg : OpReg → Instr) (byImm : Word → Instr) :
    (shapeSource byReg byImm a b).isSome = ((a.toRaw.isReg || a.toRaw.isImm) && b.toRaw.isNone) := by
  rcases a with ⟨⟨⟩⟩ | _ | _ <;> cases b <;> rfl

theorem shapeTarget_isSome (make : Word → Instr) :
    (shapeTarget make a b).isSome = (a.toRaw.isImm && b.toRaw.isNone) := by
  cases a <;> cases b <;> rfl

theorem shapeBare_isSome (i : Instr) : (shapeBare i a b).isSome = (a.toRaw.isNone && b.toRaw.isNone) := by
  cases a <;> cases b <;> rfl

/-- R82: on admitted operands the decoder's table and the shape table agree. -/
theorem instrOf_isSome (mn : Mnemonic) : (instrOf mn a b).isSome = shapeAdmitted mn a.toRaw b.toRaw := by
  cases mn
  case mov | add | sub | and | or | xor | cmp => exact shapeRegSource_isSome a b _ _
  case push | pop | inc | dec | neg | not => exact shapeReg_isSome a b _
  case xchg => exact shapeRegReg_isSome a b _
  case mul | div => exact shapeSource_isSome a b _ _
  case jmp | je | jz | jne | jnz | jg | jge | jl | jle | call | loop => exact shapeTarget_isSome a b _
  case ret | nop | hlt => exact shapeBare_isSome a b _
  case unknown => simp [instrOf, shapeAdmitted, Machine.RawOperand.ok_toRaw]

end Shapes

/-- R21, R80: IP is the one raw operand that no instruction's record has. -/
theorem RawOperand.eq_ip_or_toRaw (o : RawOperand) : o = .reg .ip ∨ ∃ x : Operand, x.toRaw = o := by
  cases o with
  | reg r =>
    cases r
    case ip => exact .inl rfl
    all_goals exact .inr ⟨_, toRaw_of_decodeOperand rfl⟩
  | imm n => exact .inr ⟨.imm n, rfl⟩
  | none => exact .inr ⟨.none, rfl⟩

theorem shapeAdmitted_ip_left (mn : Mnemonic) (o : RawOperand) : shapeAdmitted mn (.reg .ip) o = false := by
  cases mn <;> rfl

theorem shapeAdmitted_ip_right (mn : Mnemonic) (o : RawOperand) : shapeAdmitted mn o (.reg .ip) = false := by
  cases mn <;> exact Bool.and_false _

theorem decodeRecord_of_shapeAdmitted {mn : Mnemonic} {op1 op2 : RawOperand} (h : shapeAdmitted mn op1 op2 = true) :
    ∃ i, decodeRecord mn op1 op2 = .ok i := by
  rcases op1.eq_ip_or_toRaw with rfl | ⟨a, rfl⟩
  · simp [shapeAdmitted_ip_left] at h
  rcases op2.eq_ip_or_toRaw with rfl | ⟨b, rfl⟩
  · simp [shapeAdmitted_ip_right] at h
  obtain ⟨i, hi⟩ := Option.isSome_iff_exists.1 ((instrOf_isSome a b mn).trans h)
  exact ⟨i, decodeRecord_toRaw hi⟩

theorem shapeAdmitted_of_decodeRecord {mn : Mnemonic} {op1 op2 : RawOperand} {i : Instr}
    (h : decodeRecord mn op1 op2 = .ok i) : shapeAdmitted mn op1 op2 = true := by
  obtain ⟨rfl, rfl, rfl⟩ := of_decodeRecord h
  exact Machine.shapeAdmitted_of_instr i

/-! ### Images -/

theorem number_generalReg (n : BitVec 3) : (generalReg n).number = n := by
  revert n; decide

/-- R94, R96: an opcode byte that includes a register is its opcode and the register its low bits name. -/
theorem opcodeWithReg_generalReg {b : Byte} {op : BitVec 5} (h : b.extractLsb' 3 5 = op) :
    opcodeWithReg op (generalReg (b.extractLsb' 0 3)) = b := by
  rw [opcodeWithReg, number_generalReg, ← h,
    BitVec.extractLsb'_append_extractLsb'_eq_extractLsb' (show 3 = 0 + 3 from rfl), BitVec.extractLsb'_eq_self]

/-- The image of an instruction that three bytes were read as. -/
theorem image_of_decodeImage3 {b lo hi : Byte} {i : Instr} (h : decodeImage3 b lo hi = some i) :
    imageBytes i = [b, lo, hi] := by
  rw [decodeImage3, ite_eq_iff] at h
  rcases h with ⟨hop, h⟩ | ⟨-, h⟩
  · cases h
    have hopcode : opcodeWithReg 0b10111 (generalReg (b.extractLsb' 0 3)) = b := opcodeWithReg_generalReg hop
    rw [imageBytes, hopcode, Machine.lowByte_wordOf, Machine.highByte_wordOf]
  rw [ite_eq_iff] at h
  rcases h with ⟨⟨rfl, rfl⟩, h⟩ | ⟨-, h⟩
  · iterate 9
      rw [ite_eq_iff] at h
      rcases h with ⟨rfl, h⟩ | ⟨-, h⟩
      · cases h; rfl
    cases h
  · cases h

/-- R96: what an image was read by: the rows of one, of two or of three bytes, on its first bytes. -/
theorem of_decodeImage {bytes : List Byte} {i : Instr} {rest : List Byte} (h : decodeImage bytes = .ok (i, rest)) :
    (∃ b, bytes = b :: rest ∧ decodeImage1 b = some i) ∨
    (∃ b p, bytes = b :: p :: rest ∧ decodeImage2 b p = some i) ∨
    (∃ b lo hi, bytes = b :: lo :: hi :: rest ∧ decodeImage3 b lo hi = some i) := by
  unfold decodeImage at h
  repeat' split at h
  all_goals cases h
  · exact .inl ⟨_, rfl, ‹_›⟩
  · exact .inr (.inl ⟨_, _, rfl, ‹_›⟩)
  · exact .inr (.inr ⟨_, _, _, rfl, ‹_›⟩)

theorem image_of_decodeImage {bytes : List Byte} {i : Instr} {rest : List Byte}
    (h : decodeImage bytes = .ok (i, rest)) : imageBytes i ++ rest = bytes := by
  rcases of_decodeImage h with ⟨b, rfl, hi⟩ | ⟨b, p, rfl, hi⟩ | ⟨b, lo, hi, rfl, hi⟩
  · rw [image_of_decodeImage1 hi]; rfl
  · rw [image_of_decodeImage2 hi]; rfl
  · rw [image_of_decodeImage3 hi]; rfl

/-- R95: the rows of the default encoder are read; those that include a register, register by register. -/
theorem decodeImage_image (i : Instr) (rest : List Byte) : ∃ j, decodeImage (imageBytes i ++ rest) = .ok (j, rest) := by
  cases i
  case movImm d n => cases d <;> exact ⟨_, rfl⟩
  case push r | pop r | inc r | dec r => cases r <;> exact ⟨_, rfl⟩
  all_goals exact ⟨_, rfl⟩

/-- R96, R98: the row of an image's first byte in the table of lengths. -/
theorem exists_head_imageLength (i : Instr) :
    ∃ b rest, imageBytes i = b :: rest ∧ imageLength b = some (imageBytes i).length := by
  cases i
  case movImm d n => cases d <;> exact ⟨_, _, rfl, rfl⟩
  case push r | pop r | inc r | dec r => cases r <;> exact ⟨_, _, rfl, rfl⟩
  all_goals exact ⟨_, _, rfl, rfl⟩

end Sys2Proof

namespace Sys2Proof.Machine

/-! ### Offsets of an assembly -/

theorem programSize_cons (r : Record) (p : List Record) : programSize (r :: p) = r.size + programSize p := by
  simp [programSize]

/-- R89, R90: where pass 2 reports no error of a line, both of its operands are resolved. -/
theorem resolved_of_resolveErrors_nil {labels : List (Text × Nat)} {i : SymInstr} (h : resolveErrors labels i = []) :
    ∃ a b, resolveOperand labels i.op1 = .ok a ∧ resolveOperand labels i.op2 = .ok b := by
  have hall : ∀ o ∈ [i.op1, i.op2], ∃ a, resolveOperand labels o = .ok a := by
    intro o ho
    have hnone := List.filterMap_eq_nil_iff.1 h o ho
    cases hres : resolveOperand labels o with
    | ok a => exact ⟨a, rfl⟩
    | error kind => simp [hres] at hnone
  obtain ⟨a, ha⟩ := hall i.op1 (by simp)
  obtain ⟨b, hb⟩ := hall i.op2 (by simp)
  exact ⟨a, b, ha, hb⟩

/-- R89: without an error, the record of a line stands at the line's offset, before those of the lines after it. -/
theorem pass2_instr_of_no_error {enc : Instr → List Byte} {labels : List (Text × Nat)} {off : Nat} {i : SymInstr}
    {items : List Item} (h : (pass2 enc labels off (.instr i :: items)).2 = []) :
    (pass2 enc labels (off + (i.image enc).length) items).2 = [] ∧
    ∃ r, r.addr = off ∧ r.size = (i.image enc).length ∧
      (pass2 enc labels off (.instr i :: items)).1 = r :: (pass2 enc labels (off + (i.image enc).length) items).1 := by
  simp only [pass2] at h ⊢
  split at h
  · rename_i a b ha hb
    exact ⟨h, _, rfl, rfl, rfl⟩
  · rename_i hunresolved
    obtain ⟨a, b, ha, hb⟩ := resolved_of_resolveErrors_nil (List.append_eq_nil_iff.1 h).1
    exact absurd hb (hunresolved a b ha)

theorem pass2_addr {enc : Instr → List Byte} {labels : List (Text × Nat)} {off : Nat} {items : List Item}
    (h : (pass2 enc labels off items).2 = []) {before after : List Record} {r : Record}
    (hr : (pass2 enc labels off items).1 = before ++ r :: after) : r.addr = off + programSize before := by
  induction items generalizing off before with
  | nil => simp [pass2] at hr
  | cons item items ih =>
    cases item with
    | label name => exact ih h hr
    | instr i =>
      obtain ⟨hrest, first, haddr, hsize, hrecords⟩ := pass2_instr_of_no_error h
      rw [hrecords] at hr
      cases before with
      | nil =>
        obtain ⟨rfl, -⟩ := List.cons.inj hr
        exact haddr
      | cons q before =>
        obtain ⟨rfl, htail⟩ := List.cons.inj hr
        rw [ih hrest htail, programSize_cons, hsize, Nat.add_assoc]

/-! ### The statements -/

/-- Settles O1, by the inverse laws of the operands and of the table of R82. -/
theorem recordDecodeInvertsEncode : Obligations.RecordDecodeInvertsEncode :=
  ⟨decodeRecord_encodeRecord, fun _ _ _ _ => encodeRecord_of_decodeRecord⟩

/-- Settles O2: an admitted shape has an instruction, and what decodes has an admitted shape. -/
theorem decodeAdmitsExactlyTheListedShapes : Obligations.DecodeAdmitsExactlyTheListedShapes := by
  intro mn op1 op2
  refine ⟨decodeRecord_of_shapeAdmitted, fun hshape => ?_⟩
  cases h : decodeRecord mn op1 op2 with
  | error why => exact ⟨why, rfl⟩
  | ok i => exact absurd (shapeAdmitted_of_decodeRecord h) (by simp [hshape])

/-- Settles O3, by the rows an image can be read by. -/
theorem imageDecodeIsSound : Obligations.ImageDecodeIsSound :=
  fun _ _ _ => image_of_decodeImage

/-- Settles O4: every row is read, and by soundness (O3) what is read has the same image. -/
theorem everyImageIsRead : Obligations.EveryImageIsRead := by
  intro i rest
  obtain ⟨j, hj⟩ := decodeImage_image i rest
  exact ⟨j, hj, List.append_cancel_right (image_of_decodeImage hj)⟩

/-- Settles O5, row by row of R95. -/
theorem firstByteTellsTheLength : Obligations.FirstByteTellsTheLength := by
  intro i
  obtain ⟨b, rest, himage, hlength⟩ := exists_head_imageLength i
  have hsize := size_image i
  exact ⟨b, rest, himage, hlength, by omega, by omega⟩

/-- Settles O60: pass 2 starts at offset 0, and each record moves the offset on by its own size. -/
theorem assembledOffsetsAreCumulative : Obligations.AssembledOffsetsAreCumulative := by
  intro enc source hnone before r after hr
  have haddr := pass2_addr (List.append_eq_nil_iff.1 hnone).2 hr
  rwa [Nat.zero_add] at haddr

/-- Settles O6, by evaluating the two decoders on each worked image and record. -/
theorem workedEncodingsDecode : Obligations.WorkedEncodingsDecode :=
  ⟨by decide, by decide, by decide, by decide, by decide, rfl, rfl, rfl⟩

end Sys2Proof.Machine

/-! PROOF. The step cycle: the marks, the end and the result of every handler, the trace record of a step and what is read
off it, and runs. -/

namespace Sys2Proof.Machine

/-! ### Marks -/

theorem branch_changedFlags (c : Bool) (x : Word) (s : State) :
    (branch c x s).ctx.changedFlags = s.ctx.changedFlags :=
  branch_cases (P := fun t => t.ctx.changedFlags = s.ctx.changedFlags) rfl rfl

theorem divBy_changedFlags (d : Word) (s : State) : (divBy d s).ctx.changedFlags = s.ctx.changedFlags :=
  divBy_cases (P := fun t => t.ctx.changedFlags = s.ctx.changedFlags) (fun _ => rfl) fun _ _ => rfl

/-- R131: a branch marks IP exactly when it is taken. -/
theorem mem_branch_changedRegs (q : Reg) (c : Bool) (x : Word) (s : State) :
    q ∈ (branch c x s).ctx.changedRegs ↔ (q = .ip ∧ c = true) ∨ q ∈ s.ctx.changedRegs := by
  cases c with
  | false => simp [branch_not_taken]
  | true => simp [branch_taken]

theorem mem_divBy_changedRegs {d : Word} (hd : d ≠ 0) (q : Reg) (s : State) :
    q ∈ (divBy d s).ctx.changedRegs ↔ (q = .ax ∨ q = .dx) ∨ q ∈ s.ctx.changedRegs := by
  rw [divBy_nonzero hd]
  simp [or_left_comm, or_assoc]

/-- R197: LOOP's counter becomes 0 exactly from 1. -/
theorem w16_pred_eq_zero_iff (v : Word) : w16 (v.toNat - 1 : Int) = 0#16 ↔ v = 1#16 := by
  have hpred := w16_toNat (v.toNat - 1)
  have hlt := v.isLt
  simp only [← BitVec.toNat_inj, BitVec.toNat_ofNat]
  omega

/-- R131: a handler that starts with no marks ends with the flags of its row of R28 marked. -/
theorem mem_exec_changedFlags {i : Instr} {s t : State} (h : exec i s = .next t) (hs : s.ctx.changedFlags = [])
    (f : Flag) : f ∈ t.ctx.changedFlags ↔ f ∈ writtenFlags i := by
  cases i <;> injection h with h <;> subst h
  case je | jz | jne | jnz | jg | jge | jl | jle | loop => simp [branch_changedFlags, hs, writtenFlags]
  case divReg | divImm => simp [divBy_changedFlags, hs, writtenFlags]
  case hlt => exact hs ▸ Iff.rfl
  all_goals simp [hs, writtenFlags, or_comm, or_left_comm]

/-- Whether the pseudocode assigns IP: a jump that is taken, CALL and RET (R131, R185). -/
def AssignsIp (s : State) (i : Instr) : Prop := jumpTaken s i = true ∨ (∃ x, i = .call x) ∨ i = .ret

/-- R131: a handler that starts with no marks and does not fault marks the registers it assigns, IP by a transfer only. -/
theorem mem_exec_changedRegs {i : Instr} {s t : State} (h : exec i s = .next t) (hs : s.ctx.changedRegs = [])
    (hd : ¬ divisorIsZero s i) (q : Reg) :
    q ∈ t.ctx.changedRegs ↔ q ∈ writtenRegs i ∨ (q = .ip ∧ AssignsIp s i) := by
  unfold AssignsIp
  cases i <;> injection h with h <;> subst h
  case je | jz | jne | jnz | jg | jge | jl | jle =>
    simp [mem_branch_changedRegs, hs, writtenRegs, jumpTaken]
  case loop => simp [mem_branch_changedRegs, hs, writtenRegs, jumpTaken, w16_pred_eq_zero_iff, or_comm]
  case divReg | divImm =>
    refine (mem_divBy_changedRegs hd q s).trans ?_
    simp [hs, writtenRegs, jumpTaken]
  case hlt => simp [Config.hltAdvancesIp, hs, writtenRegs, jumpTaken]
  all_goals simp [hs, writtenRegs, jumpTaken, or_comm]

/-! ### How a handler ends -/

/-- R232: a DIV whose divisor is 0 faults at once. -/
theorem exec_of_divisorIsZero {i : Instr} {s : State} (hd : divisorIsZero s i) :
    exec i s = .next (s.raiseFault .divZero "division by zero") := by
  cases i
  case divReg r =>
    have hzero : s.val (.reg r) = 0 := hd
    rw [exec, execDivReg, hzero, divBy_zero]
  case divImm n =>
    cases (hd : n = 0)
    exact congrArg Host.Outcome.next (divBy_zero s)
  all_goals exact hd.elim

/-- R120, R235: a handler that starts ready halts the machine exactly by HLT or by a divisor that is 0. -/
theorem exec_halts_iff {i : Instr} {s t : State} (h : exec i s = .next t) (hs : s.cpu.halted = false) :
    t.cpu.halted = true ↔ i = .hlt ∨ divisorIsZero s i := by
  constructor
  · intro ht
    cases exec_ends h with
    | ran _ halted _ => simp [halted, hs] at ht
    | unknown _ outcome => simp [outcome, hs] at ht
    | hlt instr _ => exact .inl instr
    | faulted zero _ => exact .inr zero
  · rintro (rfl | hd)
    · cases h
      rfl
    · cases (exec_of_divisorIsZero hd).symm.trans h
      rfl

/-- R125: every handler but the unknown-mnemonic path and a faulting DIV keeps the result it starts with. -/
theorem exec_result_of_normal {i : Instr} {s t : State} (h : exec i s = .next t) (hd : ¬ divisorIsZero s i)
    (hxchg : ∀ a b, i ≠ .xchg a b) (hunknown : ∀ x y, i ≠ .unknown x y) : t.ctx.result = s.ctx.result := by
  cases i <;> injection h with h <;> subst h
  case xchg a b => exact absurd rfl (hxchg a b)
  case unknown x y => exact absurd rfl (hunknown x y)
  case divReg | divImm =>
    exact divBy_cases (P := fun t => t.ctx.result = s.ctx.result) (fun hzero => absurd hzero hd) fun _ _ => rfl
  case hlt => rfl
  all_goals simp

/-- R129: what the unknown-mnemonic path leaves. -/
theorem unknownInstruction_leaves (s : State) :
    Advanced s s.unknownInstruction ∧ Frame [.ip] [] s s.unknownInstruction ∧ NoAccess s s.unknownInstruction ∧
      s.unknownInstruction.cpu.halted = s.cpu.halted ∧ s.unknownInstruction.ctx.result = .unknownInstruction :=
  have frame : Frame [.ip] [] s s.unknownInstruction :=
    { regs := fun q hq => by rw [State.unknownInstruction_reg, if_neg (mt List.mem_singleton.2 hq)]
      flags := fun _ _ => rfl
      cycles := rfl
      istore := rfl
      program := rfl
      trace := rfl
      awaitingLoad := rfl
      size := rfl }
  ⟨advanced_of_ip (by simp), frame, ⟨fun _ => rfl, rfl⟩, rfl, rfl⟩

/-! ### The step of a record -/

theorem divisorIsZero_beginStep (s : State) (r : Record) (i : Instr) :
    divisorIsZero (s.beginStep r) i ↔ divisorIsZero s i := by
  cases i <;> exact Iff.rfl

theorem of_exec_of_divisorIsZero {s u : State} {r : Record} {i : Instr} (hu : exec i (s.beginStep r) = .next u)
    (hd : divisorIsZero s i) : u = (s.beginStep r).raiseFault .divZero "division by zero" := by
  cases (exec_of_divisorIsZero ((divisorIsZero_beginStep s r i).2 hd)).symm.trans hu
  rfl

/-- R121: a step of a ready machine that fetches a record runs its instruction's handler. -/
theorem of_step_of_fetch {s t : State} {r : Record} (hs : s.cpu.halted = false) (hf : s.fetch = some r)
    (h : step s = .next t) :
    ∃ i u, r.decode = .ok i ∧ exec i (s.beginStep r) = .next u ∧ t = u.endStep s r := by
  obtain ⟨-, ⟨hmiss, -⟩ | ⟨q, i, u, hq, hi, hu, rfl⟩⟩ := step_cases hs h
  · cases hmiss.symm.trans hf
  · cases hq.symm.trans hf
    exact ⟨i, u, hi, hu, rfl⟩

theorem of_step_of_decode {s t : State} {r : Record} {i : Instr} (hs : s.cpu.halted = false) (hf : s.fetch = some r)
    (hi : r.decode = .ok i) (h : step s = .next t) : ∃ u, exec i (s.beginStep r) = .next u ∧ t = u.endStep s r := by
  obtain ⟨j, u, hj, hu, rfl⟩ := of_step_of_fetch hs hf h
  cases hj.symm.trans hi
  exact ⟨u, hu, rfl⟩

/-- R36: the trace after a step is the one before it and the step's record. -/
theorem endStep_trace {s u : State} {r : Record} {i : Instr} (hu : exec i (s.beginStep r) = .next u) :
    (u.endStep s r).trace = s.trace ++ [traceRecord s r u] :=
  congrArg (· ++ [traceRecord s r u]) (exec_untouched hu).trace

theorem step_keeps_awaitingLoad {s t : State} (h : step s = .next t) : t.awaitingLoad = s.awaitingLoad := by
  cases hs : s.cpu.halted with
  | true =>
    cases (step_of_halted hs).symm.trans h
    rfl
  | false =>
    obtain ⟨-, ⟨-, rfl⟩ | ⟨r, i, u, -, -, hu, rfl⟩⟩ := step_cases hs h
    · rfl
    · exact (exec_untouched hu).awaitingLoad

/-! ### The cause of a halt -/

theorem haltCause_of_fault {s : State} {rec : TraceRecord} {kind : RuntimeFault} {text : String}
    (hs : s.cpu.halted = true) (hlast : s.trace.getLast? = some rec) (hdesc : rec.description = .fault kind text) :
    haltCause s = some (.fault kind) := by
  simp [haltCause, hs, hlast, hdesc]

theorem haltCause_of_last_no_fault {s : State} {rec : TraceRecord} (hs : s.cpu.halted = true)
    (hlast : s.trace.getLast? = some rec) (hdesc : ∀ kind text, rec.description ≠ .fault kind text) :
    haltCause s = if rec.instruction.mn = .hlt then some .hlt else some .fetchMiss := by
  cases hd : rec.description with
  | fault kind text => exact absurd hd (hdesc kind text)
  | effect text => simp [haltCause, hs, hlast, hd]
  | unknownInstruction text => simp [haltCause, hs, hlast, hd]

/-- R138: a halt whose last record shows a machine still ready is a fetch miss. -/
theorem haltCause_of_last_ready {s : State} (hs : s.cpu.halted = true)
    (hlast : ∀ rec, s.trace.getLast? = some rec → rec.Consistent ∧ rec.after.halted = false) :
    haltCause s = some .fetchMiss := by
  cases hrec : s.trace.getLast? with
  | none => simp [haltCause, hs, hrec]
  | some rec =>
    obtain ⟨consistent, hready⟩ := hlast rec hrec
    obtain ⟨hmn, hdesc⟩ := not_or.1 (mt consistent.haltedAfter.2 (by simp [hready]))
    rw [haltCause_of_last_no_fault hs hrec fun kind text h => hdesc ⟨kind, text, h⟩, if_neg hmn]

/-- R120: the last record of a ready machine that meets the invariant shows it ready. -/
theorem Invariant.last_ready {s : State} (inv : Invariant s) (hawait : s.awaitingLoad = false)
    (hs : s.cpu.halted = false) {rec : TraceRecord} (hlast : s.trace.getLast? = some rec) :
    rec.Consistent ∧ rec.after.halted = false := by
  refine ⟨inv.traceRecords rec (List.mem_of_getLast? hlast), Bool.eq_false_iff.2 fun hafter => ?_⟩
  exact absurd (inv.lastRecord hawait rec hlast hafter) (by simp [hs])

theorem endStep_last {s u : State} {r : Record} : (u.endStep s r).trace.getLast? = some (traceRecord s r u) := by
  simp [State.endStep]

/-! ### Runs -/

theorem run_of_next {s t : State} (hs : s.cpu.halted = false) (h : step s = .next t) (n : Nat) :
    run (n + 1) s = run n t := by
  simp [run, hs, h]

/-- A run that answers a next state with a budget left: of a halted machine, or a step and the rest of the run. -/
theorem run_succ_cases {s t : State} {n : Nat} (h : run (n + 1) s = .next t) :
    (s.cpu.halted = true ∧ t = s) ∨ (s.cpu.halted = false ∧ ∃ u, step s = .next u ∧ run n u = .next t) := by
  cases hs : s.cpu.halted with
  | true =>
    cases (run_of_halted hs _).symm.trans h
    exact .inl ⟨rfl, rfl⟩
  | false =>
    refine .inr ⟨rfl, ?_⟩
    cases hu : step s with
    | next u => exact ⟨u, rfl, run_of_next hs hu n ▸ h⟩
    | fault f => simp [run, hs, hu] at h
    | refused why => simp [run, hs, hu] at h

theorem run_add {m : Nat} {s t : State} (h : run m s = .next t) (n : Nat) : run (m + n) s = run n t := by
  induction m generalizing s with
  | zero =>
    cases h
    rw [Nat.zero_add]
  | succ m ih =>
    obtain ⟨hs, rfl⟩ | ⟨hs, u, hu, hrest⟩ := run_succ_cases h
    · rw [run_of_halted hs, run_of_halted hs]
    · rw [Nat.add_right_comm, run_of_next hs hu, ih hrest]

/-- R32, R233: a step of a ready machine counts one cycle, or halts it. -/
theorem step_halts_or_counts {s t : State} (hs : s.cpu.halted = false) (h : step s = .next t) :
    t.cpu.halted = true ∨ t.cpu.cycles = s.cpu.cycles + 1 := by
  obtain ⟨-, ⟨-, rfl⟩ | ⟨r, i, u, -, -, hu, rfl⟩⟩ := step_cases hs h
  · exact .inl rfl
  · exact .inr (congrArg (· + 1) (exec_untouched hu).cycles)

theorem run_halts_or_counts {n : Nat} {s t : State} (h : run n s = .next t) :
    t.cpu.halted = true ∨ t.cpu.cycles = s.cpu.cycles + n := by
  induction n generalizing s with
  | zero =>
    cases h
    exact .inr rfl
  | succ n ih =>
    obtain ⟨hs, rfl⟩ | ⟨hs, u, hu, hrest⟩ := run_succ_cases h
    · exact .inl hs
    · obtain hhalt | hcount := step_halts_or_counts hs hu
      · cases (run_of_halted hhalt n).symm.trans hrest
        exact .inl hhalt
      · exact (ih hrest).imp_right fun ht => by omega

/-! ### The step answers -/

/-- R82, R253: a record the machine admits decodes. -/
theorem Record.decode_of_wf {r : Record} (h : r.wf = true) : ∃ i, r.decode = .ok i := by
  obtain ⟨hshape, hsize⟩ := Bool.and_eq_true_iff.1 h
  rw [Record.decode, if_pos hsize]
  exact decodeRecord_of_shapeAdmitted hshape

theorem Invariant.fetch_decodes {s : State} (inv : Invariant s) {r : Record} (hf : s.fetch = some r) :
    ∃ i, r.decode = .ok i :=
  Record.decode_of_wf (inv.records _ (Table.mem_of_lookup hf)).1

theorem step_answers {s : State} (inv : Invariant s) (hawait : s.awaitingLoad = false) : ∃ t, step s = .next t := by
  obtain hs | hs := Bool.eq_false_or_eq_true s.cpu.halted
  · exact ⟨s, step_of_halted hs⟩
  cases hf : s.fetch with
  | none => exact ⟨_, step_of_miss hs hawait hf⟩
  | some r =>
    obtain ⟨i, hi⟩ := inv.fetch_decodes hf
    obtain ⟨u, hu⟩ := exec_completes i (s.beginStep r)
    exact ⟨_, step_of_record hs hawait hf hi hu⟩

theorem run_answers (n : Nat) {s : State} (inv : Invariant s) (hawait : s.awaitingLoad = false) :
    ∃ t, run n s = .next t := by
  induction n generalizing s with
  | zero => exact ⟨s, rfl⟩
  | succ n ih =>
    obtain hs | hs := Bool.eq_false_or_eq_true s.cpu.halted
    · exact ⟨s, run_of_halted hs _⟩
    · obtain ⟨u, hu⟩ := step_answers inv hawait
      rw [run_of_next hs hu]
      exact ih (step_keeps_invariant inv hu) ((step_keeps_awaitingLoad hu).trans hawait)

/-! ### The statements -/

/-- Settles O15: both take the unknown-mnemonic path. -/
theorem xchgAndUnknownOnlyAdvance : Obligations.XchgAndUnknownOnlyAdvance :=
  fun _ _ _ _ s => ⟨⟨_, rfl, unknownInstruction_leaves s⟩, ⟨_, rfl, unknownInstruction_leaves s⟩⟩

/-- Settles O36, from the marks of each handler; a faulting DIV assigns nothing. -/
theorem marksFollowTheDefaultPolicy : Obligations.MarksFollowTheDefaultPolicy := by
  intro i s t h hregs hflags
  refine ⟨mem_exec_changedFlags h hflags, fun hd => ?_, mem_exec_changedRegs h hregs⟩
  cases (exec_of_divisorIsZero hd).symm.trans h
  exact hregs

/-- Settles O40: a fetch miss halts, and a handler halts exactly by HLT or by a divisor that is 0. -/
theorem haltHasExactlyItsCauses : Obligations.HaltHasExactlyItsCauses := by
  intro s t hs h
  obtain ⟨-, ⟨hmiss, rfl⟩ | ⟨r, i, u, hf, hi, hu, rfl⟩⟩ := step_cases hs h
  · exact iff_of_true rfl (.inl hmiss)
  · have hhalts : u.cpu.halted = true ↔ i = .hlt ∨ divisorIsZero s i :=
      (exec_halts_iff hu hs).trans (or_congr_right (divisorIsZero_beginStep s r i))
    refine hhalts.trans ⟨fun hcause => .inr ⟨r, i, hf, hi, hcause⟩, ?_⟩
    rintro (hmiss | ⟨q, j, hq, hj, hcause⟩)
    · cases hmiss.symm.trans hf
    · cases hq.symm.trans hf
      cases hj.symm.trans hi
      exact hcause

/-- Settles O42: the record appended is `traceRecord`, whose snapshot after precedes the count of the cycle. -/
theorem stepAppendsOneTraceRecord : Obligations.StepAppendsOneTraceRecord := by
  intro s t r hs hf h
  obtain ⟨i, u, -, hu, rfl⟩ := of_step_of_fetch hs hf h
  have kept : Untouched (s.beginStep r) u := exec_untouched hu
  exact ⟨traceRecord s r u, endStep_trace hu, stepReturn_of_record h kept.trace, rfl, rfl, kept.cycles,
    congrArg (· + 1) kept.cycles, rfl, rfl, rfl, rfl⟩

/-- Settles O43, from the bus list and the breadcrumbs of `traceRecord` and the number of a handler's accesses. -/
theorem busListOfAStep : Obligations.BusListOfAStep := by
  intro s t r i hs hf hi h
  obtain ⟨u, hu, rfl⟩ := of_step_of_decode hs hf hi h
  refine ⟨traceRecord s r u, endStep_trace hu, ?bus, exec_accessLog_length hu rfl, ?crumbs⟩
  case bus => rfl
  case crumbs =>
    show fetchCrumbs s r = _
    unfold fetchCrumbs
    split <;> rfl

/-- Settles O44: the description is that of the result the handler ends with. -/
theorem descriptionTellsTheOutcome : Obligations.DescriptionTellsTheOutcome := by
  intro s t r i hs hf hi h
  obtain ⟨u, hu, rfl⟩ := of_step_of_decode hs hf hi h
  refine ⟨traceRecord s r u, endStep_trace hu, fun hd => ?fault, ?diagnostic, fun hd hxchg hunknown => ?text⟩
  case fault =>
    obtain rfl := of_exec_of_divisorIsZero hu hd
    rfl
  case diagnostic =>
    rintro (⟨a, b, rfl⟩ | ⟨x, y, rfl⟩) <;> cases hu <;> rfl
  case text =>
    have hresult : u.ctx.result = .done :=
      exec_result_of_normal hu (mt (divisorIsZero_beginStep s r i).1 hd) hxchg hunknown
    exact congrArg (describe r s.cpu u.cpu) hresult

/-- Settles O45: the last record is the one before a fetch miss, which shows a ready machine, or that of the HLT or of the
fault. -/
theorem haltCauseIsReadOffTheTrace : Obligations.HaltCauseIsReadOffTheTrace := by
  intro s t inv hs h ht
  refine ⟨fun hf => ?miss, fun r hf hi => ?hlt, fun r i hf hi hd => ?fault⟩
  case miss =>
    obtain ⟨hawait, ⟨-, rfl⟩ | ⟨r, i, u, hr, -⟩⟩ := step_cases hs h
    · exact haltCause_of_last_ready rfl fun rec hlast => inv.last_ready hawait hs hlast
    · cases hr.symm.trans hf
  case hlt =>
    obtain ⟨u, hu, rfl⟩ := of_step_of_decode hs hf hi h
    cases hu
    rw [haltCause_of_last_no_fault ht endStep_last (fun _ _ => nofun)]
    exact if_pos (of_record_decode hi).1
  case fault =>
    obtain ⟨u, hu, rfl⟩ := of_step_of_decode hs hf hi h
    obtain rfl := of_exec_of_divisorIsZero hu hd
    exact haltCause_of_fault ht endStep_last rfl

/-- Settles O54, from the equations of `run` and inductions on the budget. -/
theorem runIsItsSteps : Obligations.RunIsItsSteps := by
  refine ⟨fun _ => rfl, fun s hs => ?one, fun n s hs => ?succ, fun n s hs => run_of_halted hs n,
    fun m n s t h => run_add h n, fun n s t h => run_halts_or_counts h, fun _ => rfl⟩
  case one =>
    cases hstep : step s <;> simp [run, hs, hstep]
  case succ => exact if_neg (by simp [hs])

/-- Settles O59: the invariant holds only admitted records in the store, and every handler completes. -/
theorem stepIsTotal : Obligations.StepIsTotal := by
  intro s inv hawait
  obtain ⟨t, ht⟩ := step_answers inv hawait
  exact ⟨⟨t, ht, step_keeps_invariant inv ht, (step_keeps_awaitingLoad ht).trans hawait⟩,
    fun n => run_answers n inv hawait⟩

/-- Settles O38, by the path of a step that fetches an admitted record. -/
theorem stepRunsTheDecodedInstruction : Obligations.StepRunsTheDecodedInstruction :=
  fun _ _ _ hs hawait hf hi => ⟨fun _ ht => step_of_record hs hawait hf hi ht, rfl, rfl, rfl, rfl,
    fun _ => ⟨rfl, rfl, rfl, rfl, rfl, rfl⟩⟩

end Sys2Proof.Machine

/-! PROOF. The arithmetic family: what every completed handler leaves, and the numbers each operation writes. -/

namespace Sys2Proof.Machine

/-! ### What a completed handler leaves -/

/-- A frame may be widened. -/
theorem Frame.mono {regs regs' : List Reg} {flags flags' : List Flag} {s t : State} (f : Frame regs flags s t)
    (hregs : regs ⊆ regs') (hflags : flags ⊆ flags') : Frame regs' flags' s t :=
  { f with
    regs := fun q hq => f.regs q fun hmem => hq (hregs hmem)
    flags := fun g hg => f.flags g fun hmem => hg (hflags hmem) }

/-- R24, R28: a handler leaves everything outside its rows of the two tables, however widely they are listed. -/
theorem exec_frame {i : Instr} {s t : State} {regs : List Reg} {flags : List Flag} (h : exec i s = .next t)
    (hregs : .ip :: writtenRegs i ⊆ regs) (hflags : writtenFlags i ⊆ flags) : Frame regs flags s t :=
  (onlyTheTablesAreWritten i s t h).mono hregs hflags

/-- R72: a handler outside the stack instructions changes no byte and logs no access. -/
theorem exec_noAccess {i : Instr} {s t : State} (h : exec i s = .next t) (hi : accessesMemory i = false) :
    NoAccess s t :=
  ⟨exec_peekByte_of_no_store h (storesMemory_of_no_access hi), exec_accessLog_of_no_access h hi⟩

/-- What a handler that accesses no memory leaves beside its results, once it has advanced IP and run to its end. -/
theorem exec_leaves_of_advance {i : Instr} {s t : State} {regs : List Reg} {flags : List Flag}
    (h : exec i s = .next t) (hi : accessesMemory i = false) (hregs : .ip :: writtenRegs i ⊆ regs)
    (hflags : writtenFlags i ⊆ flags) (hip : t.reg .ip = s.returnOffset) (hran : Ran s t) :
    Advanced s t ∧ Frame regs flags s t ∧ NoAccess s t ∧ Ran s t :=
  ⟨advanced_of_ip hip, exec_frame h hregs hflags, exec_noAccess h hi, hran⟩

/-- R29: a state whose ZF and SF were computed from a value shows that value's. -/
theorem zsOf_of_flags {v : Word} {t : State} (hz : t.flag .zf = zeroFlag v) (hs : t.flag .sf = signFlag v) :
    ZsOf v t :=
  ⟨hz ▸ zeroFlag_iff v, hs ▸ signFlag_iff v⟩

/-! ### ADD and SUB -/

theorem addTo_leaves (d : OpReg) (b : Word) (s : State) : AddLeaves d b s (addTo d b s) := by
  have hexec : exec (.addImm d b) s = .next (addTo d b s) := rfl
  refine ⟨?sum, ?carry, zsOf_of_flags (by simp) (by simp),
    exec_leaves_of_advance hexec rfl ?_ ?_ (by simp) ⟨rfl, rfl⟩⟩
  case sum => simpa using w16_natCast_toNat ((s.reg d.toReg).toNat + b.toNat)
  case carry => simp [addCarry_iff]
  all_goals simp [writtenRegs, writtenFlags]

theorem subFrom_leaves (d : OpReg) (b : Word) (s : State) : SubLeaves d b s (subFrom d b s) := by
  have hexec : exec (.subImm d b) s = .next (subFrom d b s) := rfl
  refine ⟨?difference, ?borrow, zsOf_of_flags (by simp) (by simp),
    exec_leaves_of_advance hexec rfl ?_ ?_ (by simp) ⟨rfl, rfl⟩⟩
  case difference => simp [w16_toNat]
  case borrow => simp [subBorrow_iff]
  all_goals simp [writtenRegs, writtenFlags]

/-! ### INC, DEC and NEG -/

/-- R153 to R155, for any instruction whose handler is `unaryWith` and whose rows in the two tables are those of the
three. -/
theorem unaryWith_leaves {i : Instr} {r : OpReg} {v : Word} {s : State} (h : exec i s = .next (unaryWith r v s))
    (hi : accessesMemory i = false) (hregs : writtenRegs i = [r.toReg]) (hflags : writtenFlags i = [.zf, .sf]) :
    UnaryLeaves r s (unaryWith r v s) :=
  ⟨zsOf_of_flags (by simp) (by simp),
    exec_leaves_of_advance h hi (by simp [hregs]) (by simp [hflags]) (by simp) ⟨rfl, rfl⟩⟩

theorem unaryWith_reg_dest (r : OpReg) (v : Word) (s : State) : (unaryWith r v s).reg r.toReg = v := by simp

theorem w16_succ_toNat (a : Word) : (w16 (a.toNat + 1 : Int)).toNat = (a.toNat + 1) % 0x10000 := by
  have hmod := w16_toNat (a.toNat + 1)
  omega

theorem w16_pred_toNat (a : Word) : (w16 (a.toNat - 1 : Int)).toNat = (a.toNat + 0xFFFF) % 0x10000 := by
  have hmod := w16_toNat (a.toNat - 1)
  omega

theorem w16_neg_toNat (a : Word) : (w16 (0 - a.toNat : Int)).toNat = (0x10000 - a.toNat) % 0x10000 := by
  have hmod := w16_toNat (0 - a.toNat)
  have hlt := a.isLt
  omega

/-! ### MUL and DIV -/

/-- R156: the two halves of a product of words are the whole of it. -/
theorem product_halves (a b : Word) :
    (BitVec.ofNat 16 (a.toNat * b.toNat / 0x10000)).toNat * 0x10000 + (BitVec.ofNat 16 (a.toNat * b.toNat)).toNat =
      a.toNat * b.toNat := by
  have hlt : a.toNat * b.toNat < 0x10000 * 0x10000 := Nat.mul_lt_mul'' a.isLt b.isLt
  simp only [BitVec.toNat_ofNat]
  omega

theorem mulBy_leaves (m : Word) (s : State) : MulLeaves m s (mulBy m s) := by
  have hexec : exec (.mulImm m) s = .next (mulBy m s) := rfl
  have hhigh : ∀ f : Flag, f = .of ∨ f = .cf → ((mulBy m s).flag f = true ↔ ((mulBy m s).reg .dx).toNat ≠ 0) := by
    intro f hf
    rw [mulBy_flag, if_pos hf, mulHigh_iff]
    simp
  refine ⟨?product, hhigh .cf (.inr rfl), hhigh .of (.inl rfl),
    exec_leaves_of_advance hexec rfl ?_ ?_ (by simp) ⟨rfl, rfl⟩⟩
  case product => simpa using product_halves (s.reg .ax) m
  all_goals simp [writtenRegs, writtenFlags]

/-- R157: the registers after a DIV whose divisor is not 0. -/
theorem divBy_reg_of_nonzero {d : Word} (hd : d ≠ 0) (s : State) (q : Reg) :
    (divBy d s).reg q = if q = .ip then s.returnOffset else if q = .dx then w16 (dividend s % d.toNat : Nat) else
      if q = .ax then w16 (dividend s / d.toNat : Nat) else s.reg q := by
  rw [divBy_nonzero hd]
  simp [State.returnOffset, dividend]

/-- The remainder is below the divisor, so its word holds all of it. -/
theorem w16_mod_toNat {d : Word} (hd : d ≠ 0) (n : Nat) : (w16 (n % d.toNat : Nat)).toNat = n % d.toNat := by
  have hpos : 0 < d.toNat := Nat.pos_of_ne_zero fun h0 => hd (BitVec.eq_of_toNat_eq h0)
  rw [w16_natCast_toNat, Nat.mod_eq_of_lt ((Nat.mod_lt n hpos).trans d.isLt)]

theorem divBy_leaves {d : Word} (hd : d ≠ 0) (s : State) : DivLeaves d s (divBy d s) := by
  have hexec : exec (.divImm d) s = .next (divBy d s) := rfl
  have hran : Ran s (divBy d s) :=
    divBy_cases (P := Ran s) (fun hzero => absurd hzero hd) fun _ _ => ⟨rfl, rfl⟩
  refine ⟨?quotient, ?remainder, exec_leaves_of_advance hexec rfl ?_ ?_ ?_ hran⟩
  case quotient => simpa [divBy_reg_of_nonzero hd] using w16_natCast_toNat (dividend s / d.toNat)
  case remainder => simpa [divBy_reg_of_nonzero hd] using w16_mod_toNat hd (dividend s)
  all_goals simp [divBy_reg_of_nonzero hd, writtenRegs, writtenFlags]

/-- R232: a runtime fault halts the machine and writes nothing else. -/
theorem raiseFault_frame (k : RuntimeFault) (m : String) (s : State) : Frame [] [] s (s.raiseFault k m) :=
  ⟨fun _ _ => rfl, fun _ _ => rfl, rfl, rfl, rfl, rfl, rfl, rfl⟩

theorem exec_leaves_divFault {i : Instr} {s : State} (hd : divisorIsZero s i) :
    ∃ t, exec i s = .next t ∧ DivFaultLeaves s t :=
  ⟨_, exec_of_divisorIsZero hd, rfl, rfl, raiseFault_frame _ _ s, fun _ => rfl, rfl⟩

/-! ### The statements -/

/-- Settles O16: both forms are `addTo` on the operand's value. -/
theorem addWritesSumAndCarry : Obligations.AddWritesSumAndCarry :=
  fun d r n s => ⟨⟨_, rfl, addTo_leaves d (s.reg r.toReg) s⟩, ⟨_, rfl, addTo_leaves d n s⟩⟩

/-- Settles O17: both forms are `subFrom` on the operand's value. -/
theorem subWritesDifferenceAndBorrow : Obligations.SubWritesDifferenceAndBorrow :=
  fun d r n s => ⟨⟨_, rfl, subFrom_leaves d (s.reg r.toReg) s⟩, ⟨_, rfl, subFrom_leaves d n s⟩⟩

/-- Settles O18: each of the three is `unaryWith` on its own result. -/
theorem incDecNegWriteZeroAndSignOnly : Obligations.IncDecNegWriteZeroAndSignOnly := by
  refine fun r s => ⟨⟨_, rfl, ?inc, unaryWith_leaves (i := .inc r) rfl rfl rfl rfl⟩,
    ⟨_, rfl, ?dec, unaryWith_leaves (i := .dec r) rfl rfl rfl rfl⟩,
    ⟨_, rfl, ?neg, unaryWith_leaves (i := .neg r) rfl rfl rfl rfl⟩⟩
  case inc => rw [unaryWith_reg_dest, w16_succ_toNat]
  case dec => rw [unaryWith_reg_dest, w16_pred_toNat]
  case neg => rw [unaryWith_reg_dest, w16_neg_toNat]

/-- Settles O19: both forms are `mulBy` on the operand's value, and a product of two words fits DX:AX. -/
theorem mulLeavesTheExactProduct : Obligations.MulLeavesTheExactProduct :=
  fun r n s => ⟨⟨_, rfl, mulBy_leaves (s.reg r.toReg) s⟩, ⟨_, rfl, mulBy_leaves n s⟩⟩

/-- Settles O20: both forms are `divBy` on the operand's value, which does not fault. -/
theorem divLeavesQuotientAndRemainder : Obligations.DivLeavesQuotientAndRemainder :=
  fun _ _ s => ⟨fun hr => ⟨_, rfl, divBy_leaves hr s⟩, fun hn => ⟨_, rfl, divBy_leaves hn s⟩⟩

/-- Settles O21: the fault is taken before anything is written. -/
theorem divByZeroHalts : Obligations.DivByZeroHalts :=
  fun r _ => ⟨fun hr => exec_leaves_divFault (i := .divReg r) hr, exec_leaves_divFault (i := .divImm 0) rfl⟩

end Sys2Proof.Machine

/-! PROOF. The logic family: the bitwise operations, the complement, and the flags a comparison shares with SUB. -/

namespace Sys2Proof.Machine

/-! ### AND, OR and XOR -/

theorem logicWith_reg_dest (d : OpReg) (v : Word) (s : State) : (logicWith d v s).reg d.toReg = v := by simp

/-- R171 to R173, for any instruction whose handler is `logicWith` and whose rows in the tables are those of the six. -/
theorem logicWith_leaves {i : Instr} {d : OpReg} {v : Word} {s : State} (h : exec i s = .next (logicWith d v s))
    (hi : accessesMemory i = false) (hregs : writtenRegs i = [d.toReg]) (hflags : writtenFlags i = [.zf, .sf, .cf]) :
    LogicLeaves d s (logicWith d v s) :=
  ⟨by simp, zsOf_of_flags (by simp) (by simp),
    exec_leaves_of_advance h hi (by simp [hregs]) (by simp [hflags]) (by simp) ⟨rfl, rfl⟩⟩

/-- R170: a result that is `f` of the operands at every bit is so in its destination. -/
theorem logicWith_bitwise {f : Bool → Bool → Bool} {d : OpReg} {v b : Word} {s : State}
    (hv : ∀ k, v.getLsbD k = f ((s.reg d.toReg).getLsbD k) (b.getLsbD k)) :
    BitwiseResult f d b s (logicWith d v s) := by
  intro k _
  rw [logicWith_reg_dest, hv]

/-! ### NOT -/

theorem moveTo_reg_dest (d : OpReg) (v : Word) (s : State) : (moveTo d v s).reg d.toReg = v := by simp

/-- R174: the difference from 0xFFFF is the complement of every bit. -/
theorem w16_complement (a : Word) : w16 (0xFFFF - a.toNat : Int) = ~~~a := by
  apply BitVec.eq_of_toNat_eq
  have hmod := w16_toNat (0xFFFF - a.toNat)
  have hlt := a.isLt
  rw [BitVec.toNat_not]
  omega

/-- NOT writes its result as MOV does, with no flag (R174, R211). -/
theorem exec_not (r : OpReg) (s : State) : exec (.not r) s = .next (moveTo r (~~~(s.reg r.toReg)) s) := by
  rw [← w16_complement]
  rfl

/-! ### CMP -/

/-- R152, R175: the difference of two words is 0 exactly when they are equal. -/
theorem w16_sub_toNat_eq_zero_iff (a b : Word) : (w16 (a.toNat - b.toNat : Int)).toNat = 0 ↔ a = b := by
  have hmod := w16_toNat (a.toNat - b.toNat)
  have ha := a.isLt
  have hb := b.isLt
  rw [← BitVec.toNat_inj]
  omega

/-- R29: SF of a difference, as a statement about the number. -/
theorem signFlag_w16_iff (v : Int) : signFlag (w16 v) = true ↔ 0x8000 ≤ v % 0x10000 := by
  rw [signFlag_iff, ← w16_toNat]
  omega

theorem compareWith_leaves (a : OpReg) (b : Word) (s : State) : CmpLeaves a b s (compareWith a b s) := by
  have hexec : exec (.cmpImm a b) s = .next (compareWith a b s) := rfl
  refine ⟨?borrow, ?zero, ?sign, exec_leaves_of_advance hexec rfl ?_ ?_ (by simp) ⟨rfl, rfl⟩⟩
  case borrow => simp [subBorrow_iff]
  case zero => simp [zeroFlag_iff, w16_sub_toNat_eq_zero_iff]
  case sign => simp [signFlag_w16_iff]
  all_goals simp [writtenRegs, writtenFlags]

/-- R175: CMP computes its flags as SUB of the same operands does. -/
theorem compareWith_flag_eq_subFrom_flag (a : OpReg) (b : Word) (s : State) (f : Flag) :
    (compareWith a b s).flag f = (subFrom a b s).flag f :=
  (compareWith_flag s a b f).trans (subFrom_flag s a b f).symm

/-! ### The statements -/

/-- Settles O22: the six forms are `logicWith` on a result given bit by bit. -/
theorem logicIsBitwiseAndClearsCarry : Obligations.LogicIsBitwiseAndClearsCarry := by
  intro d r n s
  refine ⟨⟨_, rfl, ?andReg, logicWith_leaves (i := .andReg d r) rfl rfl rfl rfl⟩,
    ⟨_, rfl, ?andImm, logicWith_leaves (i := .andImm d n) rfl rfl rfl rfl⟩,
    ⟨_, rfl, ?orReg, logicWith_leaves (i := .orReg d r) rfl rfl rfl rfl⟩,
    ⟨_, rfl, ?orImm, logicWith_leaves (i := .orImm d n) rfl rfl rfl rfl⟩,
    ⟨_, rfl, ?xorReg, logicWith_leaves (i := .xorReg d r) rfl rfl rfl rfl⟩,
    ⟨_, rfl, ?xorImm, logicWith_leaves (i := .xorImm d n) rfl rfl rfl rfl⟩⟩
  case andReg | andImm => exact logicWith_bitwise fun _ => BitVec.getLsbD_and
  case orReg | orImm => exact logicWith_bitwise fun _ => BitVec.getLsbD_or
  case xorReg | xorImm => exact logicWith_bitwise fun _ => BitVec.getLsbD_xor

/-- Settles O23: NOT moves the complement of its register into it. -/
theorem notComplementsAndKeepsFlags : Obligations.NotComplementsAndKeepsFlags := by
  intro r s
  refine ⟨_, exec_not r s, ?number, ?bits,
    exec_leaves_of_advance (exec_not r s) rfl ?_ ?_ (by simp) ⟨rfl, rfl⟩⟩
  case number => rw [moveTo_reg_dest, BitVec.toNat_not]
  case bits =>
    intro k hk
    rw [moveTo_reg_dest]
    simp [hk]
  all_goals simp [writtenRegs, writtenFlags]

/-- Settles O24: both forms are `compareWith` on the operand's value, and SUB's are `subFrom` on the same value. -/
theorem cmpSetsTheFlagsOfSub : Obligations.CmpSetsTheFlagsOfSub :=
  fun a b n s =>
    ⟨⟨_, rfl, compareWith_leaves a (s.reg b.toReg) s, _, rfl, compareWith_flag_eq_subFrom_flag a (s.reg b.toReg) s⟩,
      ⟨_, rfl, compareWith_leaves a n s, _, rfl, compareWith_flag_eq_subFrom_flag a n s⟩⟩

end Sys2Proof.Machine

/-! PROOF. The control-flow family: the table of conditions, what a transfer leaves, and the stack's part in CALL and RET. -/

namespace Sys2Proof.Machine

/-! ### The conditions of the table (R200), as statements about the flags -/

theorem condE_iff (s : State) : condE s = true ↔ s.flag .zf = true := Iff.rfl

theorem condNe_iff (s : State) : condNe s = true ↔ ¬ s.flag .zf = true := by simp [condNe]

theorem condG_iff (s : State) : condG s = true ↔ ¬ s.flag .zf = true ∧ s.flag .sf = s.flag .of := by simp [condG]

theorem condGe_iff (s : State) : condGe s = true ↔ s.flag .sf = s.flag .of := beq_iff_eq

theorem condL_iff (s : State) : condL s = true ↔ s.flag .sf ≠ s.flag .of := bne_iff_ne

theorem condLe_iff (s : State) : condLe s = true ↔ s.flag .zf = true ∨ s.flag .sf ≠ s.flag .of := by simp [condLe]

/-! ### Jumps -/

/-- R185: IP is the only register in which the two ways of a branch differ. -/
theorem branch_reg_ip (c : Bool) (x : Word) (s : State) :
    (branch c x s).reg .ip = if c = true then x else s.returnOffset := by
  cases c with
  | true => simp [branch_taken]
  | false => simp [branch_not_taken]

/-- R185, for any instruction whose handler is `branch` on a Boolean that decides `taken`, and whose rows in the two tables
are empty. -/
theorem branch_leaves {i : Instr} {c : Bool} {taken : Prop} {x : Word} {s : State}
    (h : exec i s = .next (branch c x s)) (hi : accessesMemory i = false) (hregs : writtenRegs i = [])
    (hflags : writtenFlags i = []) (hc : c = true ↔ taken) : JumpLeaves taken x s (branch c x s) := by
  refine ⟨fun htaken => ?taken, fun hnot => advanced_of_ip ?advanced, exec_frame h (by simp [hregs]) (by simp [hflags]),
    exec_noAccess h hi, branch_halted c x s, branch_result c x s⟩
  case taken => rw [branch_reg_ip, if_pos (hc.2 htaken)]
  case advanced => rw [branch_reg_ip, if_neg (mt hc.1 hnot)]

/-! ### LOOP -/

/-- The state LOOP ends in (R197). -/
def loopTo (x : Word) (s : State) : State :=
  branch (decide (w16 ((s.reg .cx).toNat - 1 : Int) ≠ 0)) x (s.assign .cx (w16 ((s.reg .cx).toNat - 1 : Int)))

theorem exec_loop (x : Word) (s : State) : exec (.loop x) s = .next (loopTo x s) := rfl

theorem loopTo_reg_cx (x : Word) (s : State) : (loopTo x s).reg .cx = w16 ((s.reg .cx).toNat - 1 : Int) := by
  rw [loopTo, branch_reg_of_ne_ip (by decide)]
  simp

/-- R197: LOOP decides by the counter it leaves. -/
theorem loopTo_reg_ip (x : Word) (s : State) :
    (loopTo x s).reg .ip = if ((loopTo x s).reg .cx).toNat = 0 then s.returnOffset else x := by
  rw [loopTo_reg_cx, loopTo, branch_reg_ip]
  simp [State.returnOffset, ← BitVec.toNat_inj]

theorem loopTo_reg_cx_eq_zero_iff (x : Word) (s : State) :
    ((loopTo x s).reg .cx).toNat = 0 ↔ (s.reg .cx).toNat = 1 := by
  rw [loopTo_reg_cx]
  simpa [← BitVec.toNat_inj] using w16_pred_eq_zero_iff (s.reg .cx)

/-! ### The stack under CALL -/

/-- R213: the word pushed is read back from its slot. -/
theorem State.push16_peekWord_pushSlot (s : State) (v : Word) : (s.push16 v).peekWord s.pushSlot = v :=
  State.writeWord_peekWord (s.assign .sp (s.reg .sp - 2)) s.pushSlot v

theorem State.push16_keptOutsideWord (s : State) (v : Word) : KeptOutsideWord s.pushSlot s (s.push16 v) :=
  State.writeWord_keptOutsideWord (s.assign .sp (s.reg .sp - 2)) s.pushSlot v

theorem State.push16_stackTop (s : State) (v : Word) : (s.push16 v).stackTop = s.pushSlot := by
  simp [State.stackTop, State.pushSlot]

theorem State.jumpTo_peekWord (s : State) (x : Word) (a : PhysAddr) : (s.jumpTo x).peekWord a = s.peekWord a := rfl

/-! ### HLT -/

/-- R120: to halt writes no register and no flag. -/
theorem State.halt_frame (s : State) : Frame [] [] s s.halt :=
  ⟨fun _ _ => rfl, fun _ _ => rfl, rfl, rfl, rfl, rfl, rfl, rfl⟩

/-! ### The statements -/

/-- Settles O25: JMP is a branch that is always taken. -/
theorem jmpGoesToItsTarget : Obligations.JmpGoesToItsTarget :=
  fun t s => ⟨branch true t s, rfl, branch_leaves (i := .jmp t) rfl rfl rfl rfl (iff_true_intro rfl)⟩

/-- Settles O26: the eight are `branch` on their conditions of the table. -/
theorem conditionalJumpsFollowTheTable : Obligations.ConditionalJumpsFollowTheTable :=
  fun t s =>
    ⟨⟨_, rfl, branch_leaves (i := .je t) rfl rfl rfl rfl (condE_iff s)⟩,
      ⟨_, rfl, branch_leaves (i := .jz t) rfl rfl rfl rfl (condE_iff s)⟩,
      ⟨_, rfl, branch_leaves (i := .jne t) rfl rfl rfl rfl (condNe_iff s)⟩,
      ⟨_, rfl, branch_leaves (i := .jnz t) rfl rfl rfl rfl (condNe_iff s)⟩,
      ⟨_, rfl, branch_leaves (i := .jg t) rfl rfl rfl rfl (condG_iff s)⟩,
      ⟨_, rfl, branch_leaves (i := .jge t) rfl rfl rfl rfl (condGe_iff s)⟩,
      ⟨_, rfl, branch_leaves (i := .jl t) rfl rfl rfl rfl (condL_iff s)⟩,
      ⟨_, rfl, branch_leaves (i := .jle t) rfl rfl rfl rfl (condLe_iff s)⟩⟩

/-- Settles O27: CALL pushes the return offset and then writes IP alone, so memory is as the push leaves it. -/
theorem callPushesTheReturnOffset : Obligations.CallPushesTheReturnOffset := by
  intro t s
  have hexec : exec (.call t) s = .next ((s.push16 s.returnOffset).jumpTo t) := rfl
  have hsp : ((s.push16 s.returnOffset).jumpTo t).reg .sp = s.reg .sp - 2 := by simp
  refine ⟨_, hexec, by simp, ?sp, ?slot, s.push16_keptOutsideWord s.returnOffset, s.push16_stackTop s.returnOffset,
    exec_frame hexec ?regs (by simp [writtenFlags]), rfl, rfl⟩
  case sp => rw [hsp, wordSub_two_toNat]
  case slot => rw [State.jumpTo_peekWord, State.push16_peekWord_pushSlot, State.returnOffset_toNat]
  case regs => simp [writtenRegs]

/-- Settles O28: RET stores nothing, and its target is the word popped. -/
theorem retPopsIntoIp : Obligations.RetPopsIntoIp := by
  intro s
  have hexec : exec .ret s = .next (s.pop16.jumpTo s.popWord) := rfl
  have hsp : (s.pop16.jumpTo s.popWord).reg .sp = s.reg .sp + 2 := by simp
  refine ⟨_, hexec, by simp [State.popWord], ?sp, exec_peekByte_of_no_store hexec rfl,
    exec_frame hexec ?regs (by simp [writtenFlags]), rfl, rfl⟩
  case sp => rw [hsp, wordAdd_two_toNat]
  case regs => simp [writtenRegs]

/-- Settles O29: LOOP is a branch on the counter it has lowered. -/
theorem loopCountsDownAndBranches : Obligations.LoopCountsDownAndBranches := by
  intro t s
  refine ⟨_, exec_loop t s, ?count, fun hne => ?taken, fun hzero => advanced_of_ip ?advanced,
    loopTo_reg_cx_eq_zero_iff t s, exec_frame (exec_loop t s) ?regs (by simp [writtenFlags]),
    exec_noAccess (exec_loop t s) rfl, branch_halted _ _ _, branch_result _ _ _⟩
  case count => rw [loopTo_reg_cx, w16_pred_toNat]
  case taken => rw [loopTo_reg_ip, if_neg hne]
  case advanced => rw [loopTo_reg_ip, if_pos hzero]
  case regs => simp [writtenRegs]

/-- Settles O30: NOP is `advance` alone, with empty rows in both tables. -/
theorem nopOnlyAdvances : Obligations.NopOnlyAdvances :=
  fun _ => ⟨_, rfl, exec_leaves_of_advance (i := .nop) rfl rfl (by simp [writtenRegs]) (by simp [writtenFlags]) (by simp)
    ⟨rfl, rfl⟩⟩

/-- Settles O31: under the parameter's default HLT is `halt` alone. -/
theorem hltHalts : Obligations.HltHalts :=
  fun s => ⟨s.halt, rfl, rfl, rfl, rfl, s.halt_frame, exec_noAccess (i := .hlt) rfl rfl⟩

end Sys2Proof.Machine

/-! PROOF. The data-transfer family: what MOV leaves, the stack under PUSH and POP, and the two round trips through the
stack. -/

namespace Sys2Proof.Machine

/-! ### MOV -/

theorem moveTo_leaves (d : OpReg) (v : Word) (s : State) : MovLeaves d v s (moveTo d v s) := by
  have hexec : exec (.movImm d v) s = .next (moveTo d v s) := rfl
  exact ⟨moveTo_reg_dest d v s,
    exec_leaves_of_advance hexec rfl (by simp [writtenRegs]) (by simp [writtenFlags]) (by simp) ⟨rfl, rfl⟩⟩

/-! ### PUSH and POP -/

theorem State.advance_peekWord (s : State) (a : PhysAddr) : s.advance.peekWord a = s.peekWord a := rfl

theorem State.advance_stackTop (s : State) : s.advance.stackTop = s.stackTop := rfl

/-- R127: IP is no part of what `Push16` writes, so the offset to advance to is the same after it. -/
@[simp] theorem State.push16_returnOffset (s : State) (v : Word) : (s.push16 v).returnOffset = s.returnOffset := by
  simp [State.returnOffset]

/-- The state POP ends in (R216). -/
def popTo (r : OpReg) (s : State) : State := (s.pop16.assignOp r s.popWord).advance

theorem exec_pop (r : OpReg) (s : State) : exec (.pop r) s = .next (popTo r s) := rfl

/-- R216: the register is written after SP is raised, so POP SP ends with the word. -/
theorem popTo_reg (r : OpReg) (s : State) (q : Reg) :
    (popTo r s).reg q = if q = .ip then s.returnOffset else if q = r.toReg then s.popWord else
      if q = .sp then s.reg .sp + 2 else s.reg q := by
  simp [popTo, State.returnOffset]

/-! ### SP over a push and a pop -/

/-- R213, R214: a word lowered by 2 and then raised by 2, both wrapping at 16 bits, is the word itself. -/
theorem eq_of_lowered_then_raised {a b c : Word} (hlowered : b.toNat = (a.toNat + 0xFFFE) % 0x10000)
    (hraised : c.toNat = (b.toNat + 2) % 0x10000) : c = a := by
  have hlt := a.isLt
  apply BitVec.eq_of_toNat_eq
  omega

/-! ### The statements -/

/-- Settles O12: both forms are `moveTo` on the operand's value. -/
theorem movCopiesItsSource : Obligations.MovCopiesItsSource :=
  fun d r n s => ⟨⟨_, rfl, moveTo_leaves d (s.reg r.toReg) s⟩, ⟨_, rfl, moveTo_leaves d n s⟩⟩

/-- Settles O13: PUSH pushes the register's value from before and then writes IP alone, so memory and SP are as the push
leaves them. -/
theorem pushStoresBelowTheStackTop : Obligations.PushStoresBelowTheStackTop := by
  intro r s
  have hexec : exec (.push r) s = .next (s.push16 (s.reg r.toReg)).advance := rfl
  have hsp : (s.push16 (s.reg r.toReg)).advance.reg .sp = s.reg .sp - 2 := by simp
  refine ⟨_, hexec, ?sp, ?slot, s.push16_keptOutsideWord (s.reg r.toReg), ?top, advanced_of_ip (by simp),
    exec_frame hexec ?regs (by simp [writtenFlags]), rfl, rfl⟩
  case sp => rw [hsp, wordSub_two_toNat]
  case slot => rw [State.advance_peekWord, State.push16_peekWord_pushSlot]
  case top => rw [State.advance_stackTop, State.push16_stackTop]
  case regs => simp [writtenRegs]

/-- Settles O14: the register POP writes last holds the word popped, and SP, where it is another register, is as `Pop16`
leaves it. -/
theorem popTakesTheStackTop : Obligations.PopTakesTheStackTop := by
  intro r s
  refine ⟨_, exec_pop r s, ?word, fun hr => ?sp, exec_peekByte_of_no_store (exec_pop r s) rfl,
    advanced_of_ip (by simp [popTo_reg]), exec_frame (exec_pop r s) ?regs (by simp [writtenFlags]), rfl, rfl⟩
  case word => simp [popTo_reg, State.popWord]
  case sp =>
    have hne : Reg.sp ≠ r.toReg := fun heq => hr ((OpReg.toReg_inj r .sp).1 heq.symm)
    simp [popTo_reg, hne]
  case regs => simp [writtenRegs]

/-- Settles O37, from what the four leave (O13, O14, O27, O28): the second instruction finds at the stack top
the word the first stored there. -/
theorem stackRoundTrips : Obligations.StackRoundTrips := by
  refine ⟨fun r s t u hpush hpop => ?pushPop, fun x s t u hcall hret => ?callRet⟩
  case pushPop =>
    obtain ⟨_, hexec, hlowered, hslot, -, htop, -⟩ := pushStoresBelowTheStackTop r s
    cases hexec.symm.trans hpush
    obtain ⟨_, hexec', hword, hraised, -⟩ := popTakesTheStackTop r t
    cases hexec'.symm.trans hpop
    have hreg : u.reg r.toReg = s.reg r.toReg := by rw [hword, htop, hslot]
    refine ⟨hreg, ?_⟩
    by_cases hr : r = .sp
    · subst hr
      exact hreg
    · exact eq_of_lowered_then_raised hlowered (hraised hr)
  case callRet =>
    obtain ⟨_, hexec, -, hlowered, hslot, -, htop, -⟩ := callPushesTheReturnOffset x s
    cases hexec.symm.trans hcall
    obtain ⟨_, hexec', hip, hraised, -⟩ := retPopsIntoIp t
    cases hexec'.symm.trans hret
    exact ⟨by rw [hip, htop, hslot], eq_of_lowered_then_raised hlowered hraised⟩

end Sys2Proof.Machine

/-! PROOF. A fetch that finds no record. -/

namespace Sys2Proof.Machine

/-- Settles O41: the step of a miss answers `s.halt`, which differs from `s` in `halted` alone; its trace is the one before,
so the step returns no record. -/
theorem fetchMissOnlyHalts : Obligations.FetchMissOnlyHalts := by
  intro s hs hawait hmiss
  have hstep : step s = .next s.halt := step_of_miss hs hawait hmiss
  exact ⟨s.halt, hstep, s.halt_halted, rfl, rfl, s.halt_cycles, s.halt_mem, s.halt_accessLog, s.halt_istore,
    s.halt_program, s.halt_trace, stepReturn_of_kept_trace hstep s.halt_trace⟩

end Sys2Proof.Machine

/-! PROOF. Reset and load: what a machine that awaits a load keeps, which programs a load refuses, where it places their
records, and what it writes into memory. -/

namespace Sys2Proof.Machine

/-! ### Machines that await a load -/

theorem run_of_awaiting {n : Nat} {s t : State} (hs : s.cpu.halted = false) (hawait : s.awaitingLoad = true)
    (h : run n s = .next t) : t = s := by
  cases n with
  | zero => cases h; rfl
  | succ n =>
    obtain ⟨-, rfl⟩ | ⟨-, u, hu, -⟩ := run_succ_cases h
    · rfl
    · cases (step_of_awaiting hs hawait).symm.trans hu

/-- R250: only a load ends the wait for one, and no other call of the host halts the machine meanwhile. -/
theorem hostCall_keeps_awaiting {c : HostCall} {s t : State} (hs : s.cpu.halted = false)
    (hawait : s.awaitingLoad = true) (hload : ∀ p, c ≠ .loadProgram p) (h : hostCall c s = .next t) :
    t.cpu.halted = false ∧ t.awaitingLoad = true := by
  have access (u : State) (hcpu : u.cpu = s.cpu) (hwait : u.awaitingLoad = s.awaitingLoad) :
      (s.hostAccess u).cpu.halted = false ∧ (s.hostAccess u).awaitingLoad = true := by
    obtain ⟨hc, -, -, -, -, hw, -⟩ := State.hostAccess_keeps s u
    rw [hc, hw, hcpu, hwait]
    exact ⟨hs, hawait⟩
  cases c with
  | reset => cases h; exact ⟨rfl, rfl⟩
  | loadProgram p => exact absurd rfl (hload p)
  | step => cases (step_of_awaiting hs hawait).symm.trans h
  | run n => exact run_of_awaiting hs hawait h ▸ ⟨hs, hawait⟩
  | getMemoryByte a => cases h; exact access _ rfl rfl
  | getMemoryWord a => cases h; exact access _ rfl rfl
  | setMemoryByte a v => cases h; exact access _ rfl rfl
  | setMemoryWord a v => cases h; exact access _ rfl rfl
  | setReg r v => obtain ⟨-, rfl⟩ := of_hostSetReg h; exact ⟨hs, hawait⟩
  | setData a v => obtain ⟨-, rfl⟩ := of_hostSetData h; exact ⟨hs, hawait⟩

/-! ### Which programs are loaded -/

theorem programWf_iff {p : List Record} :
    programWf p = true ↔ (∀ r ∈ p, r.wf = true) ∧ programSize p ≤ 0x10000 := by
  simp [programWf, programFits]

theorem size_pos_of_wf {r : Record} (h : r.wf = true) : 0 < r.size := by
  obtain ⟨-, hsize⟩ := Bool.and_eq_true_iff.1 h
  exact of_decide_eq_true (Bool.and_eq_true_iff.1 hsize).1

theorem size_pos_of_programWf {p : List Record} (h : programWf p = true) : ∀ r ∈ p, 0 < r.size :=
  fun r hr => size_pos_of_wf ((programWf_iff.1 h).1 r hr)

theorem loadRefusal_of_wf {p : List Record} (h : ∀ r ∈ p, r.wf = true) : loadRefusal p = none := by
  induction p with
  | nil => rfl
  | cons r rest ih =>
    obtain ⟨hr, hrest⟩ := List.forall_mem_cons.1 h
    obtain ⟨i, hi⟩ := Record.decode_of_wf hr
    simp only [loadRefusal, hi]
    exact ih hrest

/-- The state a load of an admitted program ends in (R252). -/
def State.loaded (s : State) (p : List Record) : State :=
  (s.clearForLoad (patchAddresses (s.reg .cs) 0 p)).loadRecords (patchAddresses (s.reg .cs) 0 p)

theorem loadProgram_of_programWf (s : State) {p : List Record} (h : programWf p = true) :
    s.loadProgram p = .next (s.loaded p) := by
  obtain ⟨hwf, hfits⟩ := programWf_iff.1 h
  rw [State.loadProgram, loadRefusal_of_wf hwf]
  exact if_pos (decide_eq_true hfits)

/-- R252, R254: IP, `halted` and the cycle count are set, and every other register and the flags kept. -/
theorem State.loaded_cpu (s : State) (p : List Record) : (s.loaded p).cpu =
    { s.cpu with regs := s.cpu.regs.set .ip 0, halted := false, cycles := 0 } :=
  (State.loadRecords_keeps _ _).1

theorem eq_loaded_of_loadProgram {s t : State} {p : List Record} (hwf : programWf p = true)
    (h : s.loadProgram p = .next t) : t = s.loaded p := by
  cases (loadProgram_of_programWf s hwf).symm.trans h
  rfl

/-- R253: a program is refused for a record that does not decode, and else for its size. -/
theorem loadProgram_refused (s : State) {p : List Record} (h : programWf p = false) :
    ∃ why, s.loadProgram p = .refused why := by
  unfold State.loadProgram
  split
  · exact ⟨_, rfl⟩
  · rename_i hnone
    have hlarge : programFits p = false := by
      rw [Bool.eq_false_iff] at h ⊢
      exact fun hfits => h (programWf_iff.2 ⟨wf_of_loadRefusal_none hnone, of_decide_eq_true hfits⟩)
    rw [hlarge]
    exact ⟨_, rfl⟩

/-! ### Addresses of placed records -/

theorem phys_ofNat_toNat (cs : Word) {off : Nat} (h : off < 0x10000) :
    (phys cs (BitVec.ofNat 16 off)).toNat = (cs.toNat * 16 + off) % 0x100000 := by
  rw [phys_toNat, BitVec.toNat_ofNat, Nat.mod_eq_of_lt h]

/-- R52: one segment is shorter than the address space, so its offsets have addresses of their own. -/
theorem offset_eq_of_phys_eq {cs : Word} {off off' : Nat} (h : off < 0x10000) (h' : off' < 0x10000)
    (heq : (phys cs (BitVec.ofNat 16 off)).toNat = (phys cs (BitVec.ofNat 16 off')).toNat) : off = off' := by
  rw [phys_ofNat_toNat cs h, phys_ofNat_toNat cs h'] at heq
  omega

theorem phys_ofNat_eq_add (cs : Word) {off : Nat} (h : off < 0x10000) :
    phys cs (BitVec.ofNat 16 off) = phys cs 0 + BitVec.ofNat 20 off := by
  have hbase : (phys cs 0).toNat = (cs.toNat * 16 + 0) % 0x100000 := phys_toNat cs 0
  apply BitVec.eq_of_toNat_eq
  rw [phys_ofNat_toNat cs h, BitVec.toNat_add, hbase, BitVec.toNat_ofNat]
  omega

/-- A record at the address of its offset in the program (R252). -/
def placedAt (cs : Word) (off : Nat) (r : Record) : Record :=
  { r with addr := (phys cs (BitVec.ofNat 16 off)).toNat }

theorem patchAddresses_cons (cs : Word) (off : Nat) (r : Record) (p : List Record) :
    patchAddresses cs off (r :: p) = placedAt cs off r :: patchAddresses cs (off + r.size) p := rfl

theorem patchAddresses_length (cs : Word) (off : Nat) (p : List Record) :
    (patchAddresses cs off p).length = p.length := by
  induction p generalizing off with
  | nil => rfl
  | cons r rest ih => exact congrArg (· + 1) (ih _)

theorem patchAddresses_keeps_fields (cs : Word) (off : Nat) (p : List Record) :
    (patchAddresses cs off p).map (fun r => (r.mn, r.op1, r.op2, r.bytes)) =
      p.map fun r => (r.mn, r.op1, r.op2, r.bytes) := by
  induction p generalizing off with
  | nil => rfl
  | cons r rest ih => exact congrArg (_ :: ·) (ih _)

theorem placedAt_mem_patchAddresses (cs : Word) (off : Nat) (before : List Record) (r : Record)
    (after : List Record) :
    placedAt cs (off + programSize before) r ∈ patchAddresses cs off (before ++ r :: after) := by
  induction before generalizing off with
  | nil => exact List.mem_cons_self
  | cons q before ih =>
    rw [programSize_cons, ← Nat.add_assoc]
    exact List.mem_cons_of_mem _ (ih _)

theorem addr_of_mem_patchAddresses {cs : Word} {p : List Record} (hpos : ∀ r ∈ p, 0 < r.size) {off : Nat} {a : Nat}
    (h : a ∈ (patchAddresses cs off p).map Record.addr) :
    ∃ o, off ≤ o ∧ o < off + programSize p ∧ a = (phys cs (BitVec.ofNat 16 o)).toNat := by
  induction p generalizing off with
  | nil => cases h
  | cons r rest ih =>
    obtain ⟨hr, hrest⟩ := List.forall_mem_cons.1 hpos
    rw [programSize_cons]
    rcases List.mem_cons.1 h with rfl | h
    · exact ⟨off, le_rfl, by omega, rfl⟩
    · obtain ⟨o, hlow, hhigh, rfl⟩ := ih hrest h
      exact ⟨o, by omega, by omega, rfl⟩

theorem patchAddresses_addr_nodup (cs : Word) {p : List Record} (hpos : ∀ r ∈ p, 0 < r.size) {off : Nat}
    (hfits : off + programSize p ≤ 0x10000) : ((patchAddresses cs off p).map Record.addr).Nodup := by
  induction p generalizing off with
  | nil => exact List.nodup_nil
  | cons r rest ih =>
    obtain ⟨hr, hrest⟩ := List.forall_mem_cons.1 hpos
    rw [programSize_cons] at hfits
    refine List.nodup_cons.2 ⟨fun hmem => ?_, ih hrest (by omega)⟩
    obtain ⟨o, hlow, hhigh, heq⟩ := addr_of_mem_patchAddresses hrest hmem
    have hsame : off = o := offset_eq_of_phys_eq (by omega) (by omega) heq
    omega

/-! ### The store after a load -/

theorem Table.length_insert_of_lookup_none {α : Type} {a : Nat} {v : α} {t : List (Nat × α)}
    (h : Table.lookup a t = none) : (Table.insert a v t).length = t.length + 1 := by
  induction t with
  | nil => rfl
  | cons e t ih =>
    obtain ⟨b, w⟩ := e
    have hab : a ≠ b := by
      rintro rfl
      simp [Table.lookup] at h
    rw [Table.lookup, if_neg hab] at h
    rw [Table.insert, if_neg hab]
    split
    · rfl
    · exact congrArg (· + 1) (ih h)

/-- One record of a load: its store entry, then its image (R252 line 5). -/
def State.loadRecord (s : State) (r : Record) : State :=
  { s with istore := Table.insert r.addr r s.istore }.writeImage (BitVec.ofNat 20 r.addr) r.bytes

theorem State.loadRecords_cons (s : State) (r : Record) (p : List Record) :
    s.loadRecords (r :: p) = (s.loadRecord r).loadRecords p := rfl

theorem State.loadRecord_istore (s : State) (r : Record) :
    (s.loadRecord r).istore = Table.insert r.addr r s.istore := by
  obtain ⟨-, hstore, -⟩ := State.writeImage_keeps r.bytes { s with istore := Table.insert r.addr r s.istore }
    (BitVec.ofNat 20 r.addr)
  exact hstore

theorem State.loadRecords_lookup_of_not_mem {p : List Record} {a : Nat} (ha : a ∉ p.map Record.addr) (s : State) :
    Table.lookup a (s.loadRecords p).istore = Table.lookup a s.istore := by
  induction p generalizing s with
  | nil => rfl
  | cons r rest ih =>
    obtain ⟨hne, hrest⟩ := not_or.1 (mt List.mem_cons.2 ha)
    rw [State.loadRecords_cons, ih hrest, State.loadRecord_istore, Table.lookup_insert, if_neg hne]

theorem State.loadRecords_lookup_of_mem {p : List Record} (hnodup : (p.map Record.addr).Nodup) {q : Record}
    (hq : q ∈ p) (s : State) : Table.lookup q.addr (s.loadRecords p).istore = some q := by
  induction p generalizing s with
  | nil => cases hq
  | cons r rest ih =>
    obtain ⟨hfresh, hrest⟩ := List.nodup_cons.1 hnodup
    rw [State.loadRecords_cons]
    rcases List.mem_cons.1 hq with rfl | hq
    · rw [State.loadRecords_lookup_of_not_mem hfresh, State.loadRecord_istore, Table.lookup_insert, if_pos rfl]
    · exact ih hrest hq _

theorem State.loadRecords_istore_length {p : List Record} (hnodup : (p.map Record.addr).Nodup) {s : State}
    (hfree : ∀ a ∈ p.map Record.addr, Table.lookup a s.istore = none) :
    (s.loadRecords p).istore.length = s.istore.length + p.length := by
  induction p generalizing s with
  | nil => rfl
  | cons r rest ih =>
    obtain ⟨hfresh, hrest⟩ := List.nodup_cons.1 hnodup
    obtain ⟨hr, hfree⟩ := List.forall_mem_cons.1 hfree
    have hfree' : ∀ a ∈ rest.map Record.addr, Table.lookup a (s.loadRecord r).istore = none := by
      intro a ha
      rw [State.loadRecord_istore, Table.lookup_insert, if_neg (ne_of_mem_of_not_mem ha hfresh), hfree a ha]
    rw [State.loadRecords_cons, ih hrest hfree', State.loadRecord_istore, Table.length_insert_of_lookup_none hr,
      List.length_cons, Nat.add_right_comm, Nat.add_assoc]

/-! ### Memory after a load -/

theorem State.writeImage_append (x y : List Byte) (s : State) (a : PhysAddr) :
    s.writeImage a (x ++ y) = (s.writeImage a x).writeImage (a + BitVec.ofNat 20 x.length) y := by
  induction x generalizing s a with
  | nil => simp [State.writeImage]
  | cons b rest ih =>
    have hnext : a + 1 + BitVec.ofNat 20 rest.length = a + BitVec.ofNat 20 (b :: rest).length := by
      rw [List.length_cons, Nat.add_comm, BitVec.ofNat_add, BitVec.add_assoc]
      rfl
    exact (ih _ _).trans (by rw [hnext]; rfl)

theorem State.writeImage_mem_congr (bytes : List Byte) {s t : State} (h : s.mem = t.mem) (a : PhysAddr) :
    (s.writeImage a bytes).mem = (t.writeImage a bytes).mem := by
  induction bytes generalizing s t a with
  | nil => exact h
  | cons b rest ih => exact ih (congrArg (Memory.write · a b) h) (a + 1)

/-- R252: the bytes of an image that does not wrap onto itself lie one after the other, and no other byte changes. -/
theorem State.writeImage_peekByte {bytes : List Byte} (hlen : bytes.length ≤ 0x100000) (s : State) (a c : PhysAddr) :
    (s.writeImage a bytes).peekByte c = bytes.getD (c - a).toNat (s.peekByte c) := by
  induction bytes generalizing s a with
  | nil => rfl
  | cons b rest ih =>
    rw [List.length_cons] at hlen
    have hrest := ih (by omega) (s.writeByte a b) (a + 1)
    rw [State.writeByte_peekByte] at hrest
    refine hrest.trans ?_
    by_cases hc : c = a
    · subst hc
      have hpast : rest.length ≤ (c - (c + 1)).toNat := by
        have hwrap : (c - (c + 1)).toNat = 0xFFFFF := by bv_omega
        omega
      rw [if_pos rfl, List.getD_eq_default _ _ hpast, BitVec.sub_self]
      rfl
    · have hindex : (c - a).toNat = (c - (a + 1)).toNat + 1 := by bv_omega
      rw [if_neg hc, hindex, List.getD_cons_succ]

theorem length_images (p : List Record) : (p.map Record.bytes).flatten.length = programSize p := by
  rw [List.length_flatten, List.map_map]
  rfl

theorem State.loadRecord_mem (s : State) (r : Record) :
    (s.loadRecord r).mem = (s.writeImage (BitVec.ofNat 20 r.addr) r.bytes).mem :=
  State.writeImage_mem_congr r.bytes (s := { s with istore := Table.insert r.addr r s.istore }) (t := s) rfl _

/-- R252: records at consecutive offsets are written as one image. -/
theorem State.loadRecords_mem (cs : Word) {p : List Record} (hpos : ∀ r ∈ p, 0 < r.size) {off : Nat}
    (hfits : off + programSize p ≤ 0x10000) (s : State) :
    (s.loadRecords (patchAddresses cs off p)).mem =
      (s.writeImage (phys cs 0 + BitVec.ofNat 20 off) (p.map Record.bytes).flatten).mem := by
  induction p generalizing off s with
  | nil => rfl
  | cons r rest ih =>
    obtain ⟨hr, hrest⟩ := List.forall_mem_cons.1 hpos
    rw [programSize_cons] at hfits
    have haddr : BitVec.ofNat 20 (placedAt cs off r).addr = phys cs 0 + BitVec.ofNat 20 off := by
      rw [placedAt, BitVec.ofNat_toNat, BitVec.setWidth_eq, phys_ofNat_eq_add cs (by omega)]
    have hfirst : (s.loadRecord (placedAt cs off r)).mem =
        (s.writeImage (phys cs 0 + BitVec.ofNat 20 off) r.bytes).mem := by
      rw [State.loadRecord_mem, haddr]
      rfl
    have hnext : phys cs 0 + BitVec.ofNat 20 (off + r.size) =
        phys cs 0 + BitVec.ofNat 20 off + BitVec.ofNat 20 r.bytes.length := by
      rw [BitVec.ofNat_add, BitVec.add_assoc]
      rfl
    rw [patchAddresses_cons, State.loadRecords_cons, ih hrest (by omega), hnext, List.map_cons, List.flatten_cons,
      State.writeImage_append]
    exact State.writeImage_mem_congr _ hfirst _

/-- R252, R254: the bytes after a load are those of the concatenated images from `phys(CS, 0)` on, and 0x00. -/
theorem State.loaded_peekByte (s : State) {p : List Record} (hwf : programWf p = true) (c : PhysAddr) :
    (s.loaded p).peekByte c = (p.map Record.bytes).flatten.getD (c - phys (s.reg .cs) 0).toNat 0 := by
  obtain ⟨-, hfits⟩ := programWf_iff.1 hwf
  have hmem : (s.loaded p).mem = _ :=
    State.loadRecords_mem (s.reg .cs) (size_pos_of_programWf hwf) (by rwa [Nat.zero_add])
      (s.clearForLoad (patchAddresses (s.reg .cs) 0 p))
  rw [BitVec.ofNat_eq_ofNat, BitVec.add_zero] at hmem
  rw [State.peekByte, hmem]
  exact State.writeImage_peekByte (by rw [length_images]; omega) _ _ c

/-! ### The statements -/

/-- Settles O49: the defaults are those of `State.reset` by definition, and only a load ends the wait for one. -/
theorem hostResetRestoresDefaults : Obligations.HostResetRestoresDefaults :=
  ⟨fun _ => ⟨rfl, rfl, rfl, rfl, step_of_awaiting rfl rfl⟩, fun _ hs hawait => step_of_awaiting hs hawait,
    fun _ _ _ hs hawait hload h => hostCall_keeps_awaiting hs hawait hload h⟩

/-- Settles O50: placing the records leaves what clearing the machine for them set. -/
theorem loadKeepsRegistersAndFlags : Obligations.LoadKeepsRegistersAndFlags := by
  intro s p hwf
  obtain ⟨-, hprogram, htrace, hawait, -⟩ := State.loadRecords_keeps (patchAddresses (s.reg .cs) 0 p)
    (s.clearForLoad (patchAddresses (s.reg .cs) 0 p))
  have hcpu := s.loaded_cpu p
  have hreg (r : Reg) : (s.loaded p).reg r = if r = .ip then 0 else s.reg r := by
    rw [State.reg, hcpu, Regs.get_set]
    rfl
  refine ⟨s.loaded p, loadProgram_of_programWf s hwf, ?ip, fun r hr => ?reg, fun f => ?flag,
    congrArg CpuState.halted hcpu, congrArg CpuState.cycles hcpu, htrace, hawait, ?program⟩
  case ip => rw [hreg, if_pos rfl]
  case reg => rw [hreg, if_neg hr]
  case flag => rw [State.flag, hcpu, State.flag]
  case program =>
    rw [State.loaded, hprogram]
    exact patchAddresses_keeps_fields _ _ _

/-- Settles O51: the offsets of a program have addresses of their own, so no record replaces another in the store. -/
theorem loadPlacesEveryRecord : Obligations.LoadPlacesEveryRecord := by
  intro s t p hwf h
  obtain rfl := eq_loaded_of_loadProgram hwf h
  obtain ⟨-, hfits⟩ := programWf_iff.1 hwf
  have hnodup : ((patchAddresses (s.reg .cs) 0 p).map Record.addr).Nodup :=
    patchAddresses_addr_nodup _ (size_pos_of_programWf hwf) (by rwa [Nat.zero_add])
  refine ⟨fun before r after hp => ?placed, ?count⟩
  case placed =>
    have hmem : placedAt (s.reg .cs) (programSize before) r ∈ patchAddresses (s.reg .cs) 0 p := by
      have := placedAt_mem_patchAddresses (s.reg .cs) 0 before r after
      rwa [Nat.zero_add, ← hp] at this
    exact ⟨_, State.loadRecords_lookup_of_mem hnodup hmem _, rfl, rfl, rfl, rfl⟩
  case count =>
    rw [State.loaded, State.loadRecords_istore_length hnodup fun _ _ => rfl, patchAddresses_length]
    exact Nat.zero_add _

/-- Settles O52: an address is byte `j` of the image by its distance from `phys(CS, 0)`. -/
theorem loadCopiesTheImage : Obligations.LoadCopiesTheImage := by
  intro s t p hwf h
  obtain rfl := eq_loaded_of_loadProgram hwf h
  obtain ⟨-, hfits⟩ := programWf_iff.1 hwf
  refine ⟨fun j hj => ?image, fun a ha => ?zero⟩
  case image =>
    have hindex : (phys (s.reg .cs) 0 + BitVec.ofNat 20 j - phys (s.reg .cs) 0).toNat = j := by
      rw [BitVec.add_comm, BitVec.add_sub_cancel, BitVec.toNat_ofNat]
      exact Nat.mod_eq_of_lt (by omega)
    rw [s.loaded_peekByte hwf, hindex]
  case zero =>
    have hpast : programSize p ≤ (a - phys (s.reg .cs) 0).toNat := by
      by_contra hinside
      refine ha _ (Nat.lt_of_not_le hinside) ?_
      rw [BitVec.ofNat_toNat, BitVec.setWidth_eq, BitVec.add_comm, BitVec.sub_add_cancel]
    rw [s.loaded_peekByte hwf, List.getD_eq_default _ _ (by rwa [length_images])]

/-- Settles O53: a program of admitted records that is refused for no record is too large. -/
theorem loadRefusesInadmissiblePrograms : Obligations.LoadRefusesInadmissiblePrograms :=
  fun s _ h => loadProgram_refused s h

end Sys2Proof.Machine
